-- ==== Sys2Proof/Word.lean ====
section
/-!
DEFINITION. The two word types of the machine (spec/10_state.md R20, R21; spec/20_memory.md R71).
-/
namespace Sys2Proof

/-- An 8-bit value: a general register, a byte of memory, an immediate `n`, a displacement `d`. -/
abbrev Byte := BitVec 8

/-- A 16-bit value: a register pair, IX, IY, SP, pc, a memory address, a port address. -/
abbrev Word := BitVec 16

end Sys2Proof
end

