-- ==== Sys2Proof/Syntax.lean ====
section
/-!
DEFINITION. The instructions: one constructor for each mnemonic of spec/opcode_table.json ("(unlisted)" has
three, one a page), with the operand tables of spec/30_encoding.md R112, R113 and R114.
-/
namespace Sys2Proof

/-- The 8-bit registers of table `r` (R112), index 6 apart. -/
inductive Reg8 where
  | b | c | d | e | h | l | a
deriving DecidableEq, Repr

/-- Table `r` whole (R112): a register, or index 6, the memory byte at HL. -/
inductive Operand8 where
  | reg (r : Reg8)
  | hlInd
deriving DecidableEq, Repr

/-- Table `rp` (R113). -/
inductive Rp where
  | bc | de | hl | sp
deriving DecidableEq, Repr

/-- Table `rp2` (R113) for p = 0, 1, 2; its fourth entry AF has instructions of its own (R292, R307). -/
inductive RpPush where
  | bc | de | hl
deriving DecidableEq, Repr

/-- Table `rp` on the DD and FD pages (R456): the entry HL is the index register itself. -/
inductive RpIndex where
  | bc | de | xy | sp
deriving DecidableEq, Repr

/-- The condition codes (spec/10_state.md R46). -/
inductive Cond where
  | nz | z | nc | c | po | pe | p | m
deriving DecidableEq, Repr

/-- The condition codes JR tests (R204). -/
inductive JrCond where
  | nz | z | nc | c
deriving DecidableEq, Repr

/-- The rotates and shifts, table `rot` (R114). -/
inductive Rot where
  | rlc | rrc | rl | rr | sla | sra | sll | srl
deriving DecidableEq, Repr

/-- The index registers (spec/10_state.md R23). -/
inductive IndexReg where
  | ix | iy
deriving DecidableEq, Repr

/-- The page an opcode byte is read on (R120). The DD CB and FD CB pages are read from the DD and FD pages: the
byte CB there is followed by the displacement and the opcode byte (R132). -/
inductive Page where
  | main | cb | ed | ix | iy
deriving DecidableEq, Repr

/-- The instructions of the seven pages. Displacements `d` are signed bytes (R131), bit numbers and RST numbers
are below 8. The prefix bytes are rows of the opcode table, so they are constructors too (log 10). -/
inductive Instr where
  -- the MAIN page (R140)
  /-- NOP (R200) -/
  | nop
  /-- LD rp, nn (R205) -/
  | ldRpNn (p : Rp) (nn : Word)
  /-- LD (BC), A (R207) -/
  | ldBCindA
  /-- INC rp (R215) -/
  | incRp (p : Rp)
  /-- INC r (R217) -/
  | incR (r : Reg8)
  /-- DEC r (R219) -/
  | decR (r : Reg8)
  /-- LD r, n (R221) -/
  | ldRN (r : Reg8) (n : Byte)
  /-- RLCA (R223) -/
  | rlca
  /-- EX AF, AF' (R201) -/
  | exAFAF
  /-- ADD HL, rp (R206) -/
  | addHLRp (p : Rp)
  /-- LD A, (BC) (R211) -/
  | ldABCind
  /-- DEC rp (R216) -/
  | decRp (p : Rp)
  /-- RRCA (R224) -/
  | rrca
  /-- DJNZ d (R202) -/
  | djnz (d : Byte)
  /-- LD (DE), A (R208) -/
  | ldDEindA
  /-- RLA (R225) -/
  | rla
  /-- JR d (R203) -/
  | jr (d : Byte)
  /-- LD A, (DE) (R212) -/
  | ldADEind
  /-- RRA (R226) -/
  | rra
  /-- JR cc, d (R204) -/
  | jrCc (cc : JrCond) (d : Byte)
  /-- LD (nn), HL (R209) -/
  | ldNnindHL (nn : Word)
  /-- DAA (R227) -/
  | daa
  /-- LD HL, (nn) (R213) -/
  | ldHLNnind (nn : Word)
  /-- CPL (R228) -/
  | cpl
  /-- LD (nn), A (R210) -/
  | ldNnindA (nn : Word)
  /-- INC (HL) (R218) -/
  | incHLind
  /-- DEC (HL) (R220) -/
  | decHLind
  /-- LD (HL), n (R222) -/
  | ldHLindN (n : Byte)
  /-- SCF (R229) -/
  | scf
  /-- LD A, (nn) (R214) -/
  | ldANnind (nn : Word)
  /-- CCF (R230) -/
  | ccf
  /-- LD r, r' (R260) -/
  | ldRR (dst : Reg8) (src : Reg8)
  /-- LD r, (HL) (R261) -/
  | ldRHLind (r : Reg8)
  /-- LD (HL), r (R262) -/
  | ldHLindR (r : Reg8)
  /-- HALT (R263) -/
  | halt
  /-- ADD A, r, (HL) included (R270) -/
  | addAR (r : Operand8)
  /-- ADC A, r, (HL) included (R271) -/
  | adcAR (r : Operand8)
  /-- SUB r, (HL) included (R272) -/
  | subR (r : Operand8)
  /-- SBC A, r, (HL) included (R273) -/
  | sbcAR (r : Operand8)
  /-- AND r, (HL) included (R274) -/
  | andR (r : Operand8)
  /-- XOR r, (HL) included (R275) -/
  | xorR (r : Operand8)
  /-- OR r, (HL) included (R276) -/
  | orR (r : Operand8)
  /-- CP r, (HL) included (R277) -/
  | cpR (r : Operand8)
  /-- RET cc (R290) -/
  | retCc (cc : Cond)
  /-- POP rp2 for BC, DE, HL (R291) -/
  | popRp2 (p : RpPush)
  /-- JP cc, nn (R297) -/
  | jpCcNn (cc : Cond) (nn : Word)
  /-- JP nn (R298) -/
  | jpNn (nn : Word)
  /-- CALL cc, nn (R305) -/
  | callCcNn (cc : Cond) (nn : Word)
  /-- PUSH rp2 for BC, DE, HL (R306) -/
  | pushRp2 (p : RpPush)
  /-- ADD A, n (R309) -/
  | addAN (n : Byte)
  /-- RST 8*y (R317) -/
  | rst (y : Fin 8)
  /-- RET (R293) -/
  | ret
  /-- the byte CB, which selects the CB page (R318, R120) -/
  | cbPrefix
  /-- CALL nn (R308) -/
  | callNn (nn : Word)
  /-- ADC A, n (R310) -/
  | adcAN (n : Byte)
  /-- OUT (n), A (R299) -/
  | outNA (n : Byte)
  /-- SUB n (R311) -/
  | subN (n : Byte)
  /-- EXX (R294) -/
  | exx
  /-- IN A, (n) (R300) -/
  | inAN (n : Byte)
  /-- the byte DD, which selects the DD page (R318, R120) -/
  | ddPrefix
  /-- SBC A, n (R312) -/
  | sbcAN (n : Byte)
  /-- EX (SP), HL (R301) -/
  | exSPindHL
  /-- AND n (R313) -/
  | andN (n : Byte)
  /-- JP (HL) (R295) -/
  | jpHL
  /-- EX DE, HL (R302) -/
  | exDEHL
  /-- the byte ED, which selects the ED page (R318, R120) -/
  | edPrefix
  /-- XOR n (R314) -/
  | xorN (n : Byte)
  /-- POP AF (R292) -/
  | popAF
  /-- DI (R303) -/
  | di
  /-- PUSH AF (R307) -/
  | pushAF
  /-- OR n (R315) -/
  | orN (n : Byte)
  /-- LD SP, HL (R296) -/
  | ldSPHL
  /-- EI (R304) -/
  | ei
  /-- the byte FD, which selects the FD page (R318, R120) -/
  | fdPrefix
  /-- CP n (R316) -/
  | cpN (n : Byte)
  -- the CB page (R145)
  /-- RLC r, (HL) included (R340) -/
  | rlcR (r : Operand8)
  /-- RRC r, (HL) included (R341) -/
  | rrcR (r : Operand8)
  /-- RL r, (HL) included (R342) -/
  | rlR (r : Operand8)
  /-- RR r, (HL) included (R343) -/
  | rrR (r : Operand8)
  /-- SLA r, (HL) included (R344) -/
  | slaR (r : Operand8)
  /-- SRA r, (HL) included (R345) -/
  | sraR (r : Operand8)
  /-- SLL r, (HL) included (R346) -/
  | sllR (r : Operand8)
  /-- SRL r, (HL) included (R347) -/
  | srlR (r : Operand8)
  /-- BIT b, r (R350) -/
  | bitBR (b : Fin 8) (r : Reg8)
  /-- BIT b, (HL) (R351) -/
  | bitBHLind (b : Fin 8)
  /-- RES b, r (R352) -/
  | resBR (b : Fin 8) (r : Reg8)
  /-- RES b, (HL) (R353) -/
  | resBHLind (b : Fin 8)
  /-- SET b, r (R354) -/
  | setBR (b : Fin 8) (r : Reg8)
  /-- SET b, (HL) (R355) -/
  | setBHLind (b : Fin 8)
  -- the ED page (R146)
  /-- an ED opcode the source does not list (R141) -/
  | edUnlisted (op : Byte)
  /-- IN r, (C) (R370) -/
  | inRC (r : Reg8)
  /-- OUT (C), r (R372) -/
  | outCR (r : Reg8)
  /-- SBC HL, rp (R374) -/
  | sbcHLRp (p : Rp)
  /-- LD (nn), rp (R376) -/
  | ldNnindRp (nn : Word) (p : Rp)
  /-- NEG (R378) -/
  | neg
  /-- RETN (R379) -/
  | retn
  /-- IM 0 (R381) -/
  | im0
  /-- LD I, A (R382) -/
  | ldIA
  /-- ADC HL, rp (R375) -/
  | adcHLRp (p : Rp)
  /-- LD rp, (nn) (R377) -/
  | ldRpNnind (p : Rp) (nn : Word)
  /-- RETI (R380) -/
  | reti
  /-- LD R, A (R383) -/
  | ldRA
  /-- IM 1 (R381) -/
  | im1
  /-- LD A, I (R384) -/
  | ldAI
  /-- IM 2 (R381) -/
  | im2
  /-- LD A, R (R385) -/
  | ldAR
  /-- RRD (R386) -/
  | rrd
  /-- RLD (R387) -/
  | rld
  /-- IN F, (C) (R371) -/
  | inFC
  /-- OUT (C), 0 (R373) -/
  | outC0
  /-- LDI (R420) -/
  | ldi
  /-- CPI (R421) -/
  | cpi
  /-- INI (R422) -/
  | ini
  /-- OUTI (R423) -/
  | outi
  /-- LDD (R424) -/
  | ldd
  /-- CPD (R425) -/
  | cpd
  /-- IND (R426) -/
  | ind
  /-- OUTD (R427) -/
  | outd
  /-- LDIR (R428) -/
  | ldir
  /-- CPIR (R429) -/
  | cpir
  /-- INIR (R430) -/
  | inir
  /-- OTIR (R431) -/
  | otir
  /-- LDDR (R432) -/
  | lddr
  /-- CPDR (R433) -/
  | cpdr
  /-- INDR (R434) -/
  | indr
  /-- OTDR (R435) -/
  | otdr
  -- the DD page (R147, R450) and the DD CB page (R500)
  /-- DD before an opcode outside the admitted set, with the bytes after it (R142, R480) -/
  | ixUnlisted (op : Byte) (n1 : Byte) (n2 : Byte)
  /-- ADD IX, rr (R456) -/
  | addIXRr (p : RpIndex)
  /-- LD IX, nn (R451) -/
  | ldIXNn (nn : Word)
  /-- LD (nn), IX (R452) -/
  | ldNnindIX (nn : Word)
  /-- INC IX (R454) -/
  | incIX
  /-- LD IX, (nn) (R453) -/
  | ldIXNnind (nn : Word)
  /-- DEC IX (R455) -/
  | decIX
  /-- INC (IX+d) (R463) -/
  | incIXd (d : Byte)
  /-- DEC (IX+d) (R464) -/
  | decIXd (d : Byte)
  /-- LD (IX+d), n (R465) -/
  | ldIXdN (d : Byte) (n : Byte)
  /-- LD r, (IX+d) (R466) -/
  | ldRIXd (r : Reg8) (d : Byte)
  /-- LD (IX+d), r (R467) -/
  | ldIXdR (d : Byte) (r : Reg8)
  /-- ADD A, (IX+d) (R468) -/
  | addAIXd (d : Byte)
  /-- ADC A, (IX+d) (R469) -/
  | adcAIXd (d : Byte)
  /-- SUB (IX+d) (R470) -/
  | subIXd (d : Byte)
  /-- SBC A, (IX+d) (R471) -/
  | sbcAIXd (d : Byte)
  /-- AND (IX+d) (R472) -/
  | andIXd (d : Byte)
  /-- XOR (IX+d) (R473) -/
  | xorIXd (d : Byte)
  /-- OR (IX+d) (R474) -/
  | orIXd (d : Byte)
  /-- CP (IX+d) (R475) -/
  | cpIXd (d : Byte)
  /-- the byte DD after DD, which overrides it (R121) -/
  | ddPrefixAfterDd
  /-- POP IX (R457) -/
  | popIX
  /-- EX (SP), IX (R459) -/
  | exSPindIX
  /-- PUSH IX (R458) -/
  | pushIX
  /-- JP (IX) (R460) -/
  | jpIX
  /-- the byte ED after DD, which makes it ignored (R121) -/
  | edPrefixAfterDd
  /-- LD SP, IX (R461) -/
  | ldSPIX
  /-- the byte FD after DD, which overrides it (R121) -/
  | fdPrefixAfterDd
  /-- RLC to SRL (IX+d), r (R505) -/
  | rotIXdR (o : Rot) (d : Byte) (r : Reg8)
  /-- RLC to SRL (IX+d) (R501) -/
  | rotIXd (o : Rot) (d : Byte)
  /-- BIT b, (IX+d), every z (R502) -/
  | bitIXd (b : Fin 8) (d : Byte)
  /-- RES b, (IX+d), r (R505) -/
  | resIXdR (b : Fin 8) (d : Byte) (r : Reg8)
  /-- RES b, (IX+d) (R503) -/
  | resIXd (b : Fin 8) (d : Byte)
  /-- SET b, (IX+d), r (R505) -/
  | setIXdR (b : Fin 8) (d : Byte) (r : Reg8)
  /-- SET b, (IX+d) (R504) -/
  | setIXd (b : Fin 8) (d : Byte)
  -- the FD page (R481) and the FD CB page (R500)
  /-- FD before an opcode outside the admitted set, with the bytes after it (R142, R480) -/
  | iyUnlisted (op : Byte) (n1 : Byte) (n2 : Byte)
  /-- ADD IY, rr (R456) -/
  | addIYRr (p : RpIndex)
  /-- LD IY, nn (R451) -/
  | ldIYNn (nn : Word)
  /-- LD (nn), IY (R452) -/
  | ldNnindIY (nn : Word)
  /-- INC IY (R454) -/
  | incIY
  /-- LD IY, (nn) (R453) -/
  | ldIYNnind (nn : Word)
  /-- DEC IY (R455) -/
  | decIY
  /-- INC (IY+d) (R463) -/
  | incIYd (d : Byte)
  /-- DEC (IY+d) (R464) -/
  | decIYd (d : Byte)
  /-- LD (IY+d), n (R465) -/
  | ldIYdN (d : Byte) (n : Byte)
  /-- LD r, (IY+d) (R466) -/
  | ldRIYd (r : Reg8) (d : Byte)
  /-- LD (IY+d), r (R467) -/
  | ldIYdR (d : Byte) (r : Reg8)
  /-- ADD A, (IY+d) (R468) -/
  | addAIYd (d : Byte)
  /-- ADC A, (IY+d) (R469) -/
  | adcAIYd (d : Byte)
  /-- SUB (IY+d) (R470) -/
  | subIYd (d : Byte)
  /-- SBC A, (IY+d) (R471) -/
  | sbcAIYd (d : Byte)
  /-- AND (IY+d) (R472) -/
  | andIYd (d : Byte)
  /-- XOR (IY+d) (R473) -/
  | xorIYd (d : Byte)
  /-- OR (IY+d) (R474) -/
  | orIYd (d : Byte)
  /-- CP (IY+d) (R475) -/
  | cpIYd (d : Byte)
  /-- the byte DD after FD, which overrides it (R121) -/
  | ddPrefixAfterFd
  /-- POP IY (R457) -/
  | popIY
  /-- EX (SP), IY (R459) -/
  | exSPindIY
  /-- PUSH IY (R458) -/
  | pushIY
  /-- JP (IY) (R460) -/
  | jpIY
  /-- the byte ED after FD, which makes it ignored (R121) -/
  | edPrefixAfterFd
  /-- LD SP, IY (R461) -/
  | ldSPIY
  /-- the byte FD after FD, which overrides it (R121) -/
  | fdPrefixAfterFd
  /-- RLC to SRL (IY+d), r (R505) -/
  | rotIYdR (o : Rot) (d : Byte) (r : Reg8)
  /-- RLC to SRL (IY+d) (R501) -/
  | rotIYd (o : Rot) (d : Byte)
  /-- BIT b, (IY+d), every z (R502) -/
  | bitIYd (b : Fin 8) (d : Byte)
  /-- RES b, (IY+d), r (R505) -/
  | resIYdR (b : Fin 8) (d : Byte) (r : Reg8)
  /-- RES b, (IY+d) (R503) -/
  | resIYd (b : Fin 8) (d : Byte)
  /-- SET b, (IY+d), r (R505) -/
  | setIYdR (b : Fin 8) (d : Byte) (r : Reg8)
  /-- SET b, (IY+d) (R504) -/
  | setIYd (b : Fin 8) (d : Byte)
deriving DecidableEq, Repr

end Sys2Proof
end

