-- ==== Sys2Proof/Machine/Fields.lean ====
section
/-!
DEFINITION. Bit fields, sign extension and byte order: the notation of spec/00_scope.md R7 and R8, the opcode
byte's fields (spec/30_encoding.md R110) and the operand bytes of a MAIN-page opcode (R130).
-/
namespace Sys2Proof

/-- Field x of an opcode byte, bits 7-6 (R110). -/
def fieldX (op : Byte) : Nat := op.toNat / 64

/-- Field y of an opcode byte, bits 5-3 (R110). -/
def fieldY (op : Byte) : Nat := op.toNat / 8 % 8

/-- Field z of an opcode byte, bits 2-0 (R110). -/
def fieldZ (op : Byte) : Nat := op.toNat % 8

/-- Field p of an opcode byte, bits 5-4 (R110). -/
def fieldP (op : Byte) : Nat := op.toNat / 16 % 4

/-- Field q of an opcode byte, bit 3 (R110). -/
def fieldQ (op : Byte) : Nat := op.toNat / 8 % 2

/-- The opcode byte with fields x, y, z (R110). -/
def opcodeByte (x y z : Nat) : Byte := BitVec.ofNat 8 (64 * x + 8 * y + z)

/-- `hi(v)` of R7. -/
def hi (v : Word) : Byte := v.extractLsb' 8 8

/-- `lo(v)` of R7. -/
def lo (v : Word) : Byte := v.extractLsb' 0 8

/-- `h ## l` of R7: a 16-bit value from its halves. -/
def pair (h l : Byte) : Word := h ++ l

/-- `nn` from its two bytes, the first the low half (R131). -/
def imm16 (first second : Byte) : Word := pair second first

/-- `sext_16(d)` of R8. -/
def sext16 (d : Byte) : Word := d.signExtend 16

/-- How many operand bytes follow an opcode byte of the MAIN page (R130). -/
def mainOperandBytes (op : Byte) : Nat :=
  match fieldX op, fieldZ op with
  | 0, 0 => if 2 ≤ fieldY op then 1 else 0
  | 0, 1 => if fieldQ op = 0 then 2 else 0
  | 0, 2 => if 4 ≤ fieldY op then 2 else 0
  | 0, 6 => 1
  | 3, 2 => 2
  | 3, 3 => if fieldY op = 0 then 2 else if fieldY op = 2 ∨ fieldY op = 3 then 1 else 0
  | 3, 4 => 2
  | 3, 5 => if fieldY op = 1 then 2 else 0
  | 3, 6 => 1
  | _, _ => 0

end Sys2Proof
end

