-- ==== Sys2Proof/WellFormed.lean ====
section
/-!
DEFINITION. Which terms of Instr are instructions. The operand types leave nothing to check but for the encodings
the source does not list: their opcode byte, and the operand bytes they do not have.
-/
namespace Sys2Proof

/-- The 62 opcodes of the ED page that the source lists (spec/30_encoding.md R146). -/
def edListed : List Byte :=
  [0x40, 0x41, 0x42, 0x43, 0x44, 0x45, 0x46, 0x47, 0x48, 0x49, 0x4A, 0x4B, 0x4C, 0x4D, 0x4E, 0x4F,
   0x50, 0x51, 0x52, 0x53, 0x56, 0x57, 0x58, 0x59, 0x5A, 0x5B, 0x5E, 0x5F, 0x60, 0x61, 0x62, 0x63,
   0x67, 0x68, 0x69, 0x6A, 0x6B, 0x6F, 0x70, 0x71, 0x72, 0x73, 0x78, 0x79, 0x7A, 0x7B, 0xA0, 0xA1,
   0xA2, 0xA3, 0xA8, 0xA9, 0xAA, 0xAB, 0xB0, 0xB1, 0xB2, 0xB3, 0xB8, 0xB9, 0xBA, 0xBB]

/-- The 39 opcodes admitted after DD or FD (spec/47_dd_fd_index.md R450). -/
def idxAdmitted : List Byte :=
  [0x09, 0x19, 0x21, 0x22, 0x23, 0x29, 0x2A, 0x2B, 0x34, 0x35, 0x36, 0x39, 0x46, 0x4E, 0x56, 0x5E,
   0x66, 0x6E, 0x70, 0x71, 0x72, 0x73, 0x74, 0x75, 0x77, 0x7E, 0x86, 0x8E, 0x96, 0x9E, 0xA6, 0xAE,
   0xB6, 0xBE, 0xE1, 0xE3, 0xE5, 0xE9, 0xF9]

/-- The bytes after DD or FD that the decoder reads as prefixes (R450). -/
def idxPrefixes : List Byte := [0xCB, 0xDD, 0xED, 0xFD]

/-- An unlisted DD- or FD-page term: the opcode byte is outside the admitted set and no prefix byte, and an operand
byte that the MAIN-page opcode does not have is 0. -/
def idxUnlistedWf (op n1 n2 : Byte) : Bool :=
  !idxAdmitted.contains op && !idxPrefixes.contains op
    && (decide (1 ≤ mainOperandBytes op) || n1 == 0) && (decide (2 ≤ mainOperandBytes op) || n2 == 0)

/-- Well-formed instructions. Every term but an unlisted one is well formed by its operand types. -/
def Instr.wf : Instr → Bool
  | .edUnlisted op => !edListed.contains op
  | .ixUnlisted op n1 n2 => idxUnlistedWf op n1 n2
  | .iyUnlisted op n1 n2 => idxUnlistedWf op n1 n2
  | _ => true

end Sys2Proof
end

