-- ==== Sys2Proof/Decode.lean ====
section
/-!
DEFINITION. The decoder (spec/30_encoding.md R110 to R147), total on any bytes, and after it the encoder. An encoding
the source does not list decodes to a constructor of its own, which exec refuses by name or runs (R141, R142).
-/
namespace Sys2Proof

/-! ### Operand tables (R112, R113, R114) -/

/-- Table r (R112). -/
def operandOf (i : Nat) : Operand8 :=
  match i with
  | 0 => .reg .b
  | 1 => .reg .c
  | 2 => .reg .d
  | 3 => .reg .e
  | 4 => .reg .h
  | 5 => .reg .l
  | 6 => .hlInd
  | _ => .reg .a

/-- Table rp (R113). -/
def rpOf (p : Nat) : Rp :=
  match p with
  | 0 => .bc
  | 1 => .de
  | 2 => .hl
  | _ => .sp

/-- Table rp on the DD and FD pages (R456). -/
def rpIndexOf (p : Nat) : RpIndex :=
  match p with
  | 0 => .bc
  | 1 => .de
  | 2 => .xy
  | _ => .sp

/-- The condition codes (spec/10_state.md R46). -/
def condOf (y : Nat) : Cond :=
  match y with
  | 0 => .nz
  | 1 => .z
  | 2 => .nc
  | 3 => .c
  | 4 => .po
  | 5 => .pe
  | 6 => .p
  | _ => .m

/-- The condition of JR cc: cc[y - 4] (R114). -/
def jrCondOf (y : Nat) : JrCond :=
  match y with
  | 4 => .nz
  | 5 => .z
  | 6 => .nc
  | _ => .c

/-- Table rot (R114). -/
def rotOf (y : Nat) : Rot :=
  match y with
  | 0 => .rlc
  | 1 => .rrc
  | 2 => .rl
  | 3 => .rr
  | 4 => .sla
  | 5 => .sra
  | 6 => .sll
  | _ => .srl

/-- A bit number or RST number from a three-bit field (R114). -/
def bitOf (y : Nat) : Fin 8 := Fin.ofNat 8 y

/-! ### The pages -/

/-- x = 0, z = 7 of the MAIN page (R114). -/
def decodeAccumulator (y : Nat) : Instr :=
  match y with
  | 0 => .rlca
  | 1 => .rrca
  | 2 => .rla
  | 3 => .rra
  | 4 => .daa
  | 5 => .cpl
  | 6 => .scf
  | _ => .ccf

/-- x = 2 of the MAIN page: alu[y] r[z] (R114). -/
def decodeAluR (y : Nat) (r : Operand8) : Instr :=
  match y with
  | 0 => .addAR r
  | 1 => .adcAR r
  | 2 => .subR r
  | 3 => .sbcAR r
  | 4 => .andR r
  | 5 => .xorR r
  | 6 => .orR r
  | _ => .cpR r

/-- x = 3, z = 6 of the MAIN page: alu[y] n (R114). -/
def decodeAluN (y : Nat) (n : Byte) : Instr :=
  match y with
  | 0 => .addAN n
  | 1 => .adcAN n
  | 2 => .subN n
  | 3 => .sbcAN n
  | 4 => .andN n
  | 5 => .xorN n
  | 6 => .orN n
  | _ => .cpN n

/-- The MAIN page (R140). The second component is how many bytes the opcode and its operands take (R130). -/
def decodeMain (b0 b1 b2 : Byte) : Instr × Nat :=
  match fieldX b0, fieldZ b0 with
  | 0, 0 =>
    match fieldY b0 with
    | 0 => (.nop, 1)
    | 1 => (.exAFAF, 1)
    | 2 => (.djnz b1, 2)
    | 3 => (.jr b1, 2)
    | y => (.jrCc (jrCondOf y) b1, 2)
  | 0, 1 =>
    if fieldQ b0 = 0 then (.ldRpNn (rpOf (fieldP b0)) (imm16 b1 b2), 3)
    else (.addHLRp (rpOf (fieldP b0)), 1)
  | 0, 2 =>
    match fieldY b0 with
    | 0 => (.ldBCindA, 1)
    | 1 => (.ldABCind, 1)
    | 2 => (.ldDEindA, 1)
    | 3 => (.ldADEind, 1)
    | 4 => (.ldNnindHL (imm16 b1 b2), 3)
    | 5 => (.ldHLNnind (imm16 b1 b2), 3)
    | 6 => (.ldNnindA (imm16 b1 b2), 3)
    | _ => (.ldANnind (imm16 b1 b2), 3)
  | 0, 3 => if fieldQ b0 = 0 then (.incRp (rpOf (fieldP b0)), 1) else (.decRp (rpOf (fieldP b0)), 1)
  | 0, 4 =>
    match operandOf (fieldY b0) with
    | .reg r => (.incR r, 1)
    | .hlInd => (.incHLind, 1)
  | 0, 5 =>
    match operandOf (fieldY b0) with
    | .reg r => (.decR r, 1)
    | .hlInd => (.decHLind, 1)
  | 0, 6 =>
    match operandOf (fieldY b0) with
    | .reg r => (.ldRN r b1, 2)
    | .hlInd => (.ldHLindN b1, 2)
  | 0, _ => (decodeAccumulator (fieldY b0), 1)
  | 1, _ =>
    match operandOf (fieldY b0), operandOf (fieldZ b0) with
    | .reg dst, .reg src => (.ldRR dst src, 1)
    | .reg r, .hlInd => (.ldRHLind r, 1)
    | .hlInd, .reg r => (.ldHLindR r, 1)
    | .hlInd, .hlInd => (.halt, 1)
  | 2, _ => (decodeAluR (fieldY b0) (operandOf (fieldZ b0)), 1)
  | _, 0 => (.retCc (condOf (fieldY b0)), 1)
  | _, 1 =>
    match fieldY b0 with
    | 0 => (.popRp2 .bc, 1)
    | 1 => (.ret, 1)
    | 2 => (.popRp2 .de, 1)
    | 3 => (.exx, 1)
    | 4 => (.popRp2 .hl, 1)
    | 5 => (.jpHL, 1)
    | 6 => (.popAF, 1)
    | _ => (.ldSPHL, 1)
  | _, 2 => (.jpCcNn (condOf (fieldY b0)) (imm16 b1 b2), 3)
  | _, 3 =>
    match fieldY b0 with
    | 0 => (.jpNn (imm16 b1 b2), 3)
    | 1 => (.cbPrefix, 1)
    | 2 => (.outNA b1, 2)
    | 3 => (.inAN b1, 2)
    | 4 => (.exSPindHL, 1)
    | 5 => (.exDEHL, 1)
    | 6 => (.di, 1)
    | _ => (.ei, 1)
  | _, 4 => (.callCcNn (condOf (fieldY b0)) (imm16 b1 b2), 3)
  | _, 5 =>
    match fieldY b0 with
    | 0 => (.pushRp2 .bc, 1)
    | 1 => (.callNn (imm16 b1 b2), 3)
    | 2 => (.pushRp2 .de, 1)
    | 3 => (.ddPrefix, 1)
    | 4 => (.pushRp2 .hl, 1)
    | 5 => (.edPrefix, 1)
    | 6 => (.pushAF, 1)
    | _ => (.fdPrefix, 1)
  | _, 6 => (decodeAluN (fieldY b0) b1, 2)
  | _, _ => (.rst (bitOf (fieldY b0)), 1)

/-- x = 0 of the CB page: rot[y] r[z] (R145). -/
def decodeRotR (y : Nat) (r : Operand8) : Instr :=
  match y with
  | 0 => .rlcR r
  | 1 => .rrcR r
  | 2 => .rlR r
  | 3 => .rrR r
  | 4 => .slaR r
  | 5 => .sraR r
  | 6 => .sllR r
  | _ => .srlR r

/-- The CB page (R145). -/
def decodeCb (op : Byte) : Instr :=
  match fieldX op, operandOf (fieldZ op) with
  | 0, r => decodeRotR (fieldY op) r
  | 1, .reg r => .bitBR (bitOf (fieldY op)) r
  | 1, .hlInd => .bitBHLind (bitOf (fieldY op))
  | 2, .reg r => .resBR (bitOf (fieldY op)) r
  | 2, .hlInd => .resBHLind (bitOf (fieldY op))
  | _, .reg r => .setBR (bitOf (fieldY op)) r
  | _, .hlInd => .setBHLind (bitOf (fieldY op))

/-- The block instructions: block[y][z] (R114); the rest of ED 80 to BF is unlisted (R146). -/
def decodeBlock (op : Byte) : Instr :=
  match fieldY op, fieldZ op with
  | 4, 0 => .ldi
  | 4, 1 => .cpi
  | 4, 2 => .ini
  | 4, 3 => .outi
  | 5, 0 => .ldd
  | 5, 1 => .cpd
  | 5, 2 => .ind
  | 5, 3 => .outd
  | 6, 0 => .ldir
  | 6, 1 => .cpir
  | 6, 2 => .inir
  | 6, 3 => .otir
  | 7, 0 => .lddr
  | 7, 1 => .cpdr
  | 7, 2 => .indr
  | 7, 3 => .otdr
  | _, _ => .edUnlisted op

/-- The ED page (R146). -/
def decodeEd (b0 b1 b2 : Byte) : Instr × Nat :=
  match fieldX b0, fieldZ b0 with
  | 1, 0 =>
    match operandOf (fieldY b0) with
    | .reg r => (.inRC r, 1)
    | .hlInd => (.inFC, 1)
  | 1, 1 =>
    match operandOf (fieldY b0) with
    | .reg r => (.outCR r, 1)
    | .hlInd => (.outC0, 1)
  | 1, 2 => if fieldQ b0 = 0 then (.sbcHLRp (rpOf (fieldP b0)), 1) else (.adcHLRp (rpOf (fieldP b0)), 1)
  | 1, 3 =>
    if fieldQ b0 = 0 then (.ldNnindRp (imm16 b1 b2) (rpOf (fieldP b0)), 3)
    else (.ldRpNnind (rpOf (fieldP b0)) (imm16 b1 b2), 3)
  | 1, 4 => if fieldY b0 < 2 then (.neg, 1) else (.edUnlisted b0, 1)
  | 1, 5 =>
    match fieldY b0 with
    | 0 => (.retn, 1)
    | 1 => (.reti, 1)
    | _ => (.edUnlisted b0, 1)
  | 1, 6 =>
    match fieldY b0 with
    | 0 => (.im0, 1)
    | 1 => (.im0, 1)
    | 2 => (.im1, 1)
    | 3 => (.im2, 1)
    | _ => (.edUnlisted b0, 1)
  | 1, _ =>
    match fieldY b0 with
    | 0 => (.ldIA, 1)
    | 1 => (.ldRA, 1)
    | 2 => (.ldAI, 1)
    | 3 => (.ldAR, 1)
    | 4 => (.rrd, 1)
    | 5 => (.rld, 1)
    | _ => (.edUnlisted b0, 1)
  | 2, _ => (decodeBlock b0, 1)
  | _, _ => (.edUnlisted b0, 1)

/-- An opcode outside the admitted set of the DD page (R142), with the operand bytes it has on the MAIN page. -/
def ixUnlistedOp (op b1 b2 : Byte) : Instr × Nat :=
  match mainOperandBytes op with
  | 0 => (.ixUnlisted op 0 0, 1)
  | 1 => (.ixUnlisted op b1 0, 2)
  | _ => (.ixUnlisted op b1 b2, 3)

/-- The eight ALU operations on (IX+d), by field y (R468 to R475). -/
def decodeAluIX (y : Nat) (d : Byte) : Instr :=
  match y with
  | 0 => .addAIXd d
  | 1 => .adcAIXd d
  | 2 => .subIXd d
  | 3 => .sbcAIXd d
  | 4 => .andIXd d
  | 5 => .xorIXd d
  | 6 => .orIXd d
  | _ => .cpIXd d

/-- The final opcode byte of `DD CB d op` (R500 to R505). -/
def decodeIXCb (d op : Byte) : Instr :=
  match fieldX op, operandOf (fieldZ op) with
  | 0, .reg r => .rotIXdR (rotOf (fieldY op)) d r
  | 0, .hlInd => .rotIXd (rotOf (fieldY op)) d
  | 1, _ => .bitIXd (bitOf (fieldY op)) d
  | 2, .reg r => .resIXdR (bitOf (fieldY op)) d r
  | 2, .hlInd => .resIXd (bitOf (fieldY op)) d
  | _, .reg r => .setIXdR (bitOf (fieldY op)) d r
  | _, .hlInd => .setIXd (bitOf (fieldY op)) d

/-- The DD page (R147, R450): the admitted opcodes, the prefix bytes, and `CB d op` (R132); the rest is unlisted.
The second component is how many bytes the opcode and its operands take. -/
def decodeIX (b0 b1 b2 : Byte) : Instr × Nat :=
  match fieldX b0, fieldZ b0 with
  | 0, 1 =>
    if fieldQ b0 = 1 then (.addIXRr (rpIndexOf (fieldP b0)), 1)
    else if fieldP b0 = 2 then (.ldIXNn (imm16 b1 b2), 3) else ixUnlistedOp b0 b1 b2
  | 0, 2 =>
    match fieldY b0 with
    | 4 => (.ldNnindIX (imm16 b1 b2), 3)
    | 5 => (.ldIXNnind (imm16 b1 b2), 3)
    | _ => ixUnlistedOp b0 b1 b2
  | 0, 3 =>
    match fieldY b0 with
    | 4 => (.incIX, 1)
    | 5 => (.decIX, 1)
    | _ => ixUnlistedOp b0 b1 b2
  | 0, 4 => if fieldY b0 = 6 then (.incIXd b1, 2) else ixUnlistedOp b0 b1 b2
  | 0, 5 => if fieldY b0 = 6 then (.decIXd b1, 2) else ixUnlistedOp b0 b1 b2
  | 0, 6 => if fieldY b0 = 6 then (.ldIXdN b1 b2, 3) else ixUnlistedOp b0 b1 b2
  | 1, _ =>
    match operandOf (fieldY b0), operandOf (fieldZ b0) with
    | .reg r, .hlInd => (.ldRIXd r b1, 2)
    | .hlInd, .reg r => (.ldIXdR b1 r, 2)
    | _, _ => ixUnlistedOp b0 b1 b2
  | 2, 6 => (decodeAluIX (fieldY b0) b1, 2)
  | 3, 1 =>
    match fieldY b0 with
    | 4 => (.popIX, 1)
    | 5 => (.jpIX, 1)
    | 7 => (.ldSPIX, 1)
    | _ => ixUnlistedOp b0 b1 b2
  | 3, 3 =>
    match fieldY b0 with
    | 1 => (decodeIXCb b1 b2, 3)
    | 4 => (.exSPindIX, 1)
    | _ => ixUnlistedOp b0 b1 b2
  | 3, 5 =>
    match fieldY b0 with
    | 3 => (.ddPrefixAfterDd, 1)
    | 4 => (.pushIX, 1)
    | 5 => (.edPrefixAfterDd, 1)
    | 7 => (.fdPrefixAfterDd, 1)
    | _ => ixUnlistedOp b0 b1 b2
  | _, _ => ixUnlistedOp b0 b1 b2

/-- An opcode outside the admitted set of the FD page (R142), with the operand bytes it has on the MAIN page. -/
def iyUnlistedOp (op b1 b2 : Byte) : Instr × Nat :=
  match mainOperandBytes op with
  | 0 => (.iyUnlisted op 0 0, 1)
  | 1 => (.iyUnlisted op b1 0, 2)
  | _ => (.iyUnlisted op b1 b2, 3)

/-- The eight ALU operations on (IY+d), by field y (R468 to R475). -/
def decodeAluIY (y : Nat) (d : Byte) : Instr :=
  match y with
  | 0 => .addAIYd d
  | 1 => .adcAIYd d
  | 2 => .subIYd d
  | 3 => .sbcAIYd d
  | 4 => .andIYd d
  | 5 => .xorIYd d
  | 6 => .orIYd d
  | _ => .cpIYd d

/-- The final opcode byte of `FD CB d op` (R500 to R505). -/
def decodeIYCb (d op : Byte) : Instr :=
  match fieldX op, operandOf (fieldZ op) with
  | 0, .reg r => .rotIYdR (rotOf (fieldY op)) d r
  | 0, .hlInd => .rotIYd (rotOf (fieldY op)) d
  | 1, _ => .bitIYd (bitOf (fieldY op)) d
  | 2, .reg r => .resIYdR (bitOf (fieldY op)) d r
  | 2, .hlInd => .resIYd (bitOf (fieldY op)) d
  | _, .reg r => .setIYdR (bitOf (fieldY op)) d r
  | _, .hlInd => .setIYd (bitOf (fieldY op)) d

/-- The FD page (R147, R450): the admitted opcodes, the prefix bytes, and `CB d op` (R132); the rest is unlisted.
The second component is how many bytes the opcode and its operands take. -/
def decodeIY (b0 b1 b2 : Byte) : Instr × Nat :=
  match fieldX b0, fieldZ b0 with
  | 0, 1 =>
    if fieldQ b0 = 1 then (.addIYRr (rpIndexOf (fieldP b0)), 1)
    else if fieldP b0 = 2 then (.ldIYNn (imm16 b1 b2), 3) else iyUnlistedOp b0 b1 b2
  | 0, 2 =>
    match fieldY b0 with
    | 4 => (.ldNnindIY (imm16 b1 b2), 3)
    | 5 => (.ldIYNnind (imm16 b1 b2), 3)
    | _ => iyUnlistedOp b0 b1 b2
  | 0, 3 =>
    match fieldY b0 with
    | 4 => (.incIY, 1)
    | 5 => (.decIY, 1)
    | _ => iyUnlistedOp b0 b1 b2
  | 0, 4 => if fieldY b0 = 6 then (.incIYd b1, 2) else iyUnlistedOp b0 b1 b2
  | 0, 5 => if fieldY b0 = 6 then (.decIYd b1, 2) else iyUnlistedOp b0 b1 b2
  | 0, 6 => if fieldY b0 = 6 then (.ldIYdN b1 b2, 3) else iyUnlistedOp b0 b1 b2
  | 1, _ =>
    match operandOf (fieldY b0), operandOf (fieldZ b0) with
    | .reg r, .hlInd => (.ldRIYd r b1, 2)
    | .hlInd, .reg r => (.ldIYdR b1 r, 2)
    | _, _ => iyUnlistedOp b0 b1 b2
  | 2, 6 => (decodeAluIY (fieldY b0) b1, 2)
  | 3, 1 =>
    match fieldY b0 with
    | 4 => (.popIY, 1)
    | 5 => (.jpIY, 1)
    | 7 => (.ldSPIY, 1)
    | _ => iyUnlistedOp b0 b1 b2
  | 3, 3 =>
    match fieldY b0 with
    | 1 => (decodeIYCb b1 b2, 3)
    | 4 => (.exSPindIY, 1)
    | _ => iyUnlistedOp b0 b1 b2
  | 3, 5 =>
    match fieldY b0 with
    | 3 => (.ddPrefixAfterFd, 1)
    | 4 => (.pushIY, 1)
    | 5 => (.edPrefixAfterFd, 1)
    | 7 => (.fdPrefixAfterFd, 1)
    | _ => iyUnlistedOp b0 b1 b2
  | _, _ => iyUnlistedOp b0 b1 b2

/-! ### One opcode byte on its page, and a whole instruction -/

/-- What the bytes at hand are, read on page `p`: an instruction and how many bytes of that page it takes. Total: at
most three bytes are looked at (R133). -/
def decodeOn (p : Page) (b0 b1 b2 : Byte) : Instr × Nat :=
  match p with
  | .main => decodeMain b0 b1 b2
  | .cb => (decodeCb b0, 1)
  | .ed => decodeEd b0 b1 b2
  | .ix => decodeIX b0 b1 b2
  | .iy => decodeIY b0 b1 b2

/-- The page a prefix byte selects for the bytes that follow it (R120, R121, R318); none for an instruction. -/
def Instr.selects : Instr → Option Page
  | .cbPrefix => some .cb
  | .edPrefix => some .ed
  | .ddPrefix => some .ix
  | .fdPrefix => some .iy
  | .ddPrefixAfterDd => some .ix
  | .ddPrefixAfterFd => some .ix
  | .fdPrefixAfterDd => some .iy
  | .fdPrefixAfterFd => some .iy
  | .edPrefixAfterDd => some .ed
  | .edPrefixAfterFd => some .ed
  | _ => none

/-- Why a list of bytes holds no whole instruction. -/
inductive Reject where
  /-- the bytes end inside an instruction -/
  | truncated
deriving DecidableEq, Repr

/-- A decoded instruction: its length with all its prefix bytes, and how many opcode fetches it is for R (spec/10_state.md
R31: one for each prefix byte and one for the opcode byte, but for DD CB and FD CB, whose last opcode byte is none). -/
structure Decoded where
  instr : Instr
  len : Nat
  fetches : Nat
deriving DecidableEq, Repr

/-- Decode of R120 on a list of bytes, from page `p` on; `fuel` bounds the prefix bytes read. -/
def decodeFrom (fuel : Nat) (p : Page) (bs : List Byte) : Except Reject Decoded :=
  match fuel, bs with
  | 0, _ => .error .truncated
  | _, [] => .error .truncated
  | fuel + 1, b0 :: rest =>
    let u := decodeOn p b0 (rest.getD 0 0) (rest.getD 1 0)
    match u.1.selects with
    | some q =>
      match decodeFrom fuel q rest with
      | .ok r => .ok { r with len := r.len + 1, fetches := r.fetches + 1 }
      | .error e => .error e
    | none => if rest.length + 1 < u.2 then .error .truncated else .ok ⟨u.1, u.2, 1⟩

/-- The instruction at the head of a list of bytes (R120); rejects by name a list that ends inside it. -/
def decode (bs : List Byte) : Except Reject Decoded := decodeFrom (bs.length + 1) .main bs

/-- Byte `k` of a row's bits, the first byte the least significant. -/
def tableByte (w k : Nat) : Byte := BitVec.ofNat 8 (w / 2 ^ (8 * k))

/-- Walks the bytes of `w` page by page from byte `k`, and answers what is decoded from the bytes that hold byte
`target`: an opcode byte, or a prefix byte when the row is a prefix byte's. -/
def decodeTableFrom (fuel : Nat) (p : Page) (w k target : Nat) : Option Instr :=
  match fuel with
  | 0 => none
  | fuel + 1 =>
    let u := decodeOn p (tableByte w k) (tableByte w (k + 1)) (tableByte w (k + 2))
    if target < k + u.2 then some u.1
    else
      match u.1.selects with
      | some q => decodeTableFrom fuel q w (k + u.2) target
      | none => none

/-- The host's question about a row of the opcode table: the decoder's reading of the bytes whose bits are `w`, at the
row's last byte, which is the opcode byte the row is about. -/
def decodeTableWord (nbits w : Nat) : Option Instr :=
  decodeTableFrom (nbits / 8 + 1) .main (w % 2 ^ nbits) 0 (nbits / 8 - 1)

/-! ### The encoder -/

/-- Index in table r (R112). -/
def Reg8.code : Reg8 → Nat
  | .b => 0
  | .c => 1
  | .d => 2
  | .e => 3
  | .h => 4
  | .l => 5
  | .a => 7

/-- Index in table r (R112), 6 for (HL). -/
def Operand8.code : Operand8 → Nat
  | .reg r => r.code
  | .hlInd => 6

/-- Index in table rp (R113). -/
def Rp.code : Rp → Nat
  | .bc => 0
  | .de => 1
  | .hl => 2
  | .sp => 3

/-- Index in table rp2 (R113). -/
def RpPush.code : RpPush → Nat
  | .bc => 0
  | .de => 1
  | .hl => 2

/-- Index in table rp on the DD and FD pages (R456). -/
def RpIndex.code : RpIndex → Nat
  | .bc => 0
  | .de => 1
  | .xy => 2
  | .sp => 3

/-- Condition code (spec/10_state.md R46). -/
def Cond.code : Cond → Nat
  | .nz => 0
  | .z => 1
  | .nc => 2
  | .c => 3
  | .po => 4
  | .pe => 5
  | .p => 6
  | .m => 7

/-- Field y of JR cc (R204). -/
def JrCond.code : JrCond → Nat
  | .nz => 4
  | .z => 5
  | .nc => 6
  | .c => 7

/-- Index in table rot (R114). -/
def Rot.code : Rot → Nat
  | .rlc => 0
  | .rrc => 1
  | .rl => 2
  | .rr => 3
  | .sla => 4
  | .sra => 5
  | .sll => 6
  | .srl => 7

/-- The page an instruction's own bytes are read on. -/
def Instr.page : Instr → Page
  | .nop => .main
  | .ldRpNn _ _ => .main
  | .ldBCindA => .main
  | .incRp _ => .main
  | .incR _ => .main
  | .decR _ => .main
  | .ldRN _ _ => .main
  | .rlca => .main
  | .exAFAF => .main
  | .addHLRp _ => .main
  | .ldABCind => .main
  | .decRp _ => .main
  | .rrca => .main
  | .djnz _ => .main
  | .ldDEindA => .main
  | .rla => .main
  | .jr _ => .main
  | .ldADEind => .main
  | .rra => .main
  | .jrCc _ _ => .main
  | .ldNnindHL _ => .main
  | .daa => .main
  | .ldHLNnind _ => .main
  | .cpl => .main
  | .ldNnindA _ => .main
  | .incHLind => .main
  | .decHLind => .main
  | .ldHLindN _ => .main
  | .scf => .main
  | .ldANnind _ => .main
  | .ccf => .main
  | .ldRR _ _ => .main
  | .ldRHLind _ => .main
  | .ldHLindR _ => .main
  | .halt => .main
  | .addAR _ => .main
  | .adcAR _ => .main
  | .subR _ => .main
  | .sbcAR _ => .main
  | .andR _ => .main
  | .xorR _ => .main
  | .orR _ => .main
  | .cpR _ => .main
  | .retCc _ => .main
  | .popRp2 _ => .main
  | .jpCcNn _ _ => .main
  | .jpNn _ => .main
  | .callCcNn _ _ => .main
  | .pushRp2 _ => .main
  | .addAN _ => .main
  | .rst _ => .main
  | .ret => .main
  | .cbPrefix => .main
  | .callNn _ => .main
  | .adcAN _ => .main
  | .outNA _ => .main
  | .subN _ => .main
  | .exx => .main
  | .inAN _ => .main
  | .ddPrefix => .main
  | .sbcAN _ => .main
  | .exSPindHL => .main
  | .andN _ => .main
  | .jpHL => .main
  | .exDEHL => .main
  | .edPrefix => .main
  | .xorN _ => .main
  | .popAF => .main
  | .di => .main
  | .pushAF => .main
  | .orN _ => .main
  | .ldSPHL => .main
  | .ei => .main
  | .fdPrefix => .main
  | .cpN _ => .main
  | .rlcR _ => .cb
  | .rrcR _ => .cb
  | .rlR _ => .cb
  | .rrR _ => .cb
  | .slaR _ => .cb
  | .sraR _ => .cb
  | .sllR _ => .cb
  | .srlR _ => .cb
  | .bitBR _ _ => .cb
  | .bitBHLind _ => .cb
  | .resBR _ _ => .cb
  | .resBHLind _ => .cb
  | .setBR _ _ => .cb
  | .setBHLind _ => .cb
  | .edUnlisted _ => .ed
  | .inRC _ => .ed
  | .outCR _ => .ed
  | .sbcHLRp _ => .ed
  | .ldNnindRp _ _ => .ed
  | .neg => .ed
  | .retn => .ed
  | .im0 => .ed
  | .ldIA => .ed
  | .adcHLRp _ => .ed
  | .ldRpNnind _ _ => .ed
  | .reti => .ed
  | .ldRA => .ed
  | .im1 => .ed
  | .ldAI => .ed
  | .im2 => .ed
  | .ldAR => .ed
  | .rrd => .ed
  | .rld => .ed
  | .inFC => .ed
  | .outC0 => .ed
  | .ldi => .ed
  | .cpi => .ed
  | .ini => .ed
  | .outi => .ed
  | .ldd => .ed
  | .cpd => .ed
  | .ind => .ed
  | .outd => .ed
  | .ldir => .ed
  | .cpir => .ed
  | .inir => .ed
  | .otir => .ed
  | .lddr => .ed
  | .cpdr => .ed
  | .indr => .ed
  | .otdr => .ed
  | .ixUnlisted _ _ _ => .ix
  | .addIXRr _ => .ix
  | .ldIXNn _ => .ix
  | .ldNnindIX _ => .ix
  | .incIX => .ix
  | .ldIXNnind _ => .ix
  | .decIX => .ix
  | .incIXd _ => .ix
  | .decIXd _ => .ix
  | .ldIXdN _ _ => .ix
  | .ldRIXd _ _ => .ix
  | .ldIXdR _ _ => .ix
  | .addAIXd _ => .ix
  | .adcAIXd _ => .ix
  | .subIXd _ => .ix
  | .sbcAIXd _ => .ix
  | .andIXd _ => .ix
  | .xorIXd _ => .ix
  | .orIXd _ => .ix
  | .cpIXd _ => .ix
  | .ddPrefixAfterDd => .ix
  | .popIX => .ix
  | .exSPindIX => .ix
  | .pushIX => .ix
  | .jpIX => .ix
  | .edPrefixAfterDd => .ix
  | .ldSPIX => .ix
  | .fdPrefixAfterDd => .ix
  | .rotIXdR _ _ _ => .ix
  | .rotIXd _ _ => .ix
  | .bitIXd _ _ => .ix
  | .resIXdR _ _ _ => .ix
  | .resIXd _ _ => .ix
  | .setIXdR _ _ _ => .ix
  | .setIXd _ _ => .ix
  | .iyUnlisted _ _ _ => .iy
  | .addIYRr _ => .iy
  | .ldIYNn _ => .iy
  | .ldNnindIY _ => .iy
  | .incIY => .iy
  | .ldIYNnind _ => .iy
  | .decIY => .iy
  | .incIYd _ => .iy
  | .decIYd _ => .iy
  | .ldIYdN _ _ => .iy
  | .ldRIYd _ _ => .iy
  | .ldIYdR _ _ => .iy
  | .addAIYd _ => .iy
  | .adcAIYd _ => .iy
  | .subIYd _ => .iy
  | .sbcAIYd _ => .iy
  | .andIYd _ => .iy
  | .xorIYd _ => .iy
  | .orIYd _ => .iy
  | .cpIYd _ => .iy
  | .ddPrefixAfterFd => .iy
  | .popIY => .iy
  | .exSPindIY => .iy
  | .pushIY => .iy
  | .jpIY => .iy
  | .edPrefixAfterFd => .iy
  | .ldSPIY => .iy
  | .fdPrefixAfterFd => .iy
  | .rotIYdR _ _ _ => .iy
  | .rotIYd _ _ => .iy
  | .bitIYd _ _ => .iy
  | .resIYdR _ _ _ => .iy
  | .resIYd _ _ => .iy
  | .setIYdR _ _ _ => .iy
  | .setIYd _ _ => .iy

/-- The page-selecting bytes of R120. -/
def Page.select : Page → List Byte
  | .main => []
  | .cb => [0xCB]
  | .ed => [0xED]
  | .ix => [0xDD]
  | .iy => [0xFD]

/-- The operand bytes an unlisted DD or FD opcode has (R130). -/
def unlistedOperands (op n1 n2 : Byte) : List Byte :=
  match mainOperandBytes op with
  | 0 => []
  | 1 => [n1]
  | _ => [n1, n2]

/-- The bytes of an instruction on its page: the opcode byte and the operand bytes, in memory order (R82, R130, R132). -/
def Instr.pageBytes : Instr → List Byte
  | .nop => [0x00]
  | .ldRpNn p nn => [opcodeByte 0 (2 * p.code) 1, lo nn, hi nn]
  | .ldBCindA => [0x02]
  | .incRp p => [opcodeByte 0 (2 * p.code) 3]
  | .incR r => [opcodeByte 0 r.code 4]
  | .decR r => [opcodeByte 0 r.code 5]
  | .ldRN r n => [opcodeByte 0 r.code 6, n]
  | .rlca => [0x07]
  | .exAFAF => [0x08]
  | .addHLRp p => [opcodeByte 0 (2 * p.code + 1) 1]
  | .ldABCind => [0x0A]
  | .decRp p => [opcodeByte 0 (2 * p.code + 1) 3]
  | .rrca => [0x0F]
  | .djnz d => [0x10, d]
  | .ldDEindA => [0x12]
  | .rla => [0x17]
  | .jr d => [0x18, d]
  | .ldADEind => [0x1A]
  | .rra => [0x1F]
  | .jrCc cc d => [opcodeByte 0 cc.code 0, d]
  | .ldNnindHL nn => [0x22, lo nn, hi nn]
  | .daa => [0x27]
  | .ldHLNnind nn => [0x2A, lo nn, hi nn]
  | .cpl => [0x2F]
  | .ldNnindA nn => [0x32, lo nn, hi nn]
  | .incHLind => [0x34]
  | .decHLind => [0x35]
  | .ldHLindN n => [0x36, n]
  | .scf => [0x37]
  | .ldANnind nn => [0x3A, lo nn, hi nn]
  | .ccf => [0x3F]
  | .ldRR dst src => [opcodeByte 1 dst.code src.code]
  | .ldRHLind r => [opcodeByte 1 r.code 6]
  | .ldHLindR r => [opcodeByte 1 6 r.code]
  | .halt => [0x76]
  | .addAR r => [opcodeByte 2 0 r.code]
  | .adcAR r => [opcodeByte 2 1 r.code]
  | .subR r => [opcodeByte 2 2 r.code]
  | .sbcAR r => [opcodeByte 2 3 r.code]
  | .andR r => [opcodeByte 2 4 r.code]
  | .xorR r => [opcodeByte 2 5 r.code]
  | .orR r => [opcodeByte 2 6 r.code]
  | .cpR r => [opcodeByte 2 7 r.code]
  | .retCc cc => [opcodeByte 3 cc.code 0]
  | .popRp2 p => [opcodeByte 3 (2 * p.code) 1]
  | .jpCcNn cc nn => [opcodeByte 3 cc.code 2, lo nn, hi nn]
  | .jpNn nn => [0xC3, lo nn, hi nn]
  | .callCcNn cc nn => [opcodeByte 3 cc.code 4, lo nn, hi nn]
  | .pushRp2 p => [opcodeByte 3 (2 * p.code) 5]
  | .addAN n => [0xC6, n]
  | .rst y => [opcodeByte 3 y.val 7]
  | .ret => [0xC9]
  | .cbPrefix => [0xCB]
  | .callNn nn => [0xCD, lo nn, hi nn]
  | .adcAN n => [0xCE, n]
  | .outNA n => [0xD3, n]
  | .subN n => [0xD6, n]
  | .exx => [0xD9]
  | .inAN n => [0xDB, n]
  | .ddPrefix => [0xDD]
  | .sbcAN n => [0xDE, n]
  | .exSPindHL => [0xE3]
  | .andN n => [0xE6, n]
  | .jpHL => [0xE9]
  | .exDEHL => [0xEB]
  | .edPrefix => [0xED]
  | .xorN n => [0xEE, n]
  | .popAF => [0xF1]
  | .di => [0xF3]
  | .pushAF => [0xF5]
  | .orN n => [0xF6, n]
  | .ldSPHL => [0xF9]
  | .ei => [0xFB]
  | .fdPrefix => [0xFD]
  | .cpN n => [0xFE, n]
  | .rlcR r => [opcodeByte 0 0 r.code]
  | .rrcR r => [opcodeByte 0 1 r.code]
  | .rlR r => [opcodeByte 0 2 r.code]
  | .rrR r => [opcodeByte 0 3 r.code]
  | .slaR r => [opcodeByte 0 4 r.code]
  | .sraR r => [opcodeByte 0 5 r.code]
  | .sllR r => [opcodeByte 0 6 r.code]
  | .srlR r => [opcodeByte 0 7 r.code]
  | .bitBR b r => [opcodeByte 1 b.val r.code]
  | .bitBHLind b => [opcodeByte 1 b.val 6]
  | .resBR b r => [opcodeByte 2 b.val r.code]
  | .resBHLind b => [opcodeByte 2 b.val 6]
  | .setBR b r => [opcodeByte 3 b.val r.code]
  | .setBHLind b => [opcodeByte 3 b.val 6]
  | .edUnlisted op => [op]
  | .inRC r => [opcodeByte 1 r.code 0]
  | .outCR r => [opcodeByte 1 r.code 1]
  | .sbcHLRp p => [opcodeByte 1 (2 * p.code) 2]
  | .ldNnindRp nn p => [opcodeByte 1 (2 * p.code) 3, lo nn, hi nn]
  | .neg => [0x44]
  | .retn => [0x45]
  | .im0 => [0x46]
  | .ldIA => [0x47]
  | .adcHLRp p => [opcodeByte 1 (2 * p.code + 1) 2]
  | .ldRpNnind p nn => [opcodeByte 1 (2 * p.code + 1) 3, lo nn, hi nn]
  | .reti => [0x4D]
  | .ldRA => [0x4F]
  | .im1 => [0x56]
  | .ldAI => [0x57]
  | .im2 => [0x5E]
  | .ldAR => [0x5F]
  | .rrd => [0x67]
  | .rld => [0x6F]
  | .inFC => [0x70]
  | .outC0 => [0x71]
  | .ldi => [0xA0]
  | .cpi => [0xA1]
  | .ini => [0xA2]
  | .outi => [0xA3]
  | .ldd => [0xA8]
  | .cpd => [0xA9]
  | .ind => [0xAA]
  | .outd => [0xAB]
  | .ldir => [0xB0]
  | .cpir => [0xB1]
  | .inir => [0xB2]
  | .otir => [0xB3]
  | .lddr => [0xB8]
  | .cpdr => [0xB9]
  | .indr => [0xBA]
  | .otdr => [0xBB]
  | .ixUnlisted op n1 n2 => op :: unlistedOperands op n1 n2
  | .addIXRr p => [opcodeByte 0 (2 * p.code + 1) 1]
  | .ldIXNn nn => [0x21, lo nn, hi nn]
  | .ldNnindIX nn => [0x22, lo nn, hi nn]
  | .incIX => [0x23]
  | .ldIXNnind nn => [0x2A, lo nn, hi nn]
  | .decIX => [0x2B]
  | .incIXd d => [0x34, d]
  | .decIXd d => [0x35, d]
  | .ldIXdN d n => [0x36, d, n]
  | .ldRIXd r d => [opcodeByte 1 r.code 6, d]
  | .ldIXdR d r => [opcodeByte 1 6 r.code, d]
  | .addAIXd d => [0x86, d]
  | .adcAIXd d => [0x8E, d]
  | .subIXd d => [0x96, d]
  | .sbcAIXd d => [0x9E, d]
  | .andIXd d => [0xA6, d]
  | .xorIXd d => [0xAE, d]
  | .orIXd d => [0xB6, d]
  | .cpIXd d => [0xBE, d]
  | .ddPrefixAfterDd => [0xDD]
  | .popIX => [0xE1]
  | .exSPindIX => [0xE3]
  | .pushIX => [0xE5]
  | .jpIX => [0xE9]
  | .edPrefixAfterDd => [0xED]
  | .ldSPIX => [0xF9]
  | .fdPrefixAfterDd => [0xFD]
  | .rotIXdR o d r => [0xCB, d, opcodeByte 0 o.code r.code]
  | .rotIXd o d => [0xCB, d, opcodeByte 0 o.code 6]
  | .bitIXd b d => [0xCB, d, opcodeByte 1 b.val 6]
  | .resIXdR b d r => [0xCB, d, opcodeByte 2 b.val r.code]
  | .resIXd b d => [0xCB, d, opcodeByte 2 b.val 6]
  | .setIXdR b d r => [0xCB, d, opcodeByte 3 b.val r.code]
  | .setIXd b d => [0xCB, d, opcodeByte 3 b.val 6]
  | .iyUnlisted op n1 n2 => op :: unlistedOperands op n1 n2
  | .addIYRr p => [opcodeByte 0 (2 * p.code + 1) 1]
  | .ldIYNn nn => [0x21, lo nn, hi nn]
  | .ldNnindIY nn => [0x22, lo nn, hi nn]
  | .incIY => [0x23]
  | .ldIYNnind nn => [0x2A, lo nn, hi nn]
  | .decIY => [0x2B]
  | .incIYd d => [0x34, d]
  | .decIYd d => [0x35, d]
  | .ldIYdN d n => [0x36, d, n]
  | .ldRIYd r d => [opcodeByte 1 r.code 6, d]
  | .ldIYdR d r => [opcodeByte 1 6 r.code, d]
  | .addAIYd d => [0x86, d]
  | .adcAIYd d => [0x8E, d]
  | .subIYd d => [0x96, d]
  | .sbcAIYd d => [0x9E, d]
  | .andIYd d => [0xA6, d]
  | .xorIYd d => [0xAE, d]
  | .orIYd d => [0xB6, d]
  | .cpIYd d => [0xBE, d]
  | .ddPrefixAfterFd => [0xDD]
  | .popIY => [0xE1]
  | .exSPindIY => [0xE3]
  | .pushIY => [0xE5]
  | .jpIY => [0xE9]
  | .edPrefixAfterFd => [0xED]
  | .ldSPIY => [0xF9]
  | .fdPrefixAfterFd => [0xFD]
  | .rotIYdR o d r => [0xCB, d, opcodeByte 0 o.code r.code]
  | .rotIYd o d => [0xCB, d, opcodeByte 0 o.code 6]
  | .bitIYd b d => [0xCB, d, opcodeByte 1 b.val 6]
  | .resIYdR b d r => [0xCB, d, opcodeByte 2 b.val r.code]
  | .resIYd b d => [0xCB, d, opcodeByte 2 b.val 6]
  | .setIYdR b d r => [0xCB, d, opcodeByte 3 b.val r.code]
  | .setIYd b d => [0xCB, d, opcodeByte 3 b.val 6]

/-- The bytes of an instruction, in memory order: the page-selecting byte, if its page has one, and its bytes there. -/
def encode (i : Instr) : List Byte := i.page.select ++ i.pageBytes

end Sys2Proof
end

