-- ==== Sys2Proof/Config.lean ====
section
/-!
DEFINITION. What an implementation fixes: the parameters of spec/00_scope.md R5, and the free values of
spec/93_implementation_defined.md part 1b.
-/
namespace Sys2Proof

/-- `ED_UNLISTED` and `IDX_UNLISTED` (R5 P11, P12): what an encoding the source does not list does. -/
inductive Unlisted where
  /-- the machine refuses it (decisions D12 and D13; the default) -/
  | refuse
  /-- it acts as Z80 silicon is known to (R141, R480) -/
  | silicon
deriving DecidableEq, Repr

/-- `XY_OPEN` and `BLOCK_IO_FLAGS` (R5 P13, P14): flag bits the source does not settle. -/
inductive OpenFlags where
  /-- each bit is a free value (decisions D10 and D11; the default) -/
  | draw
  /-- each bit is as Z80 silicon is known to set it (R44, R45) -/
  | silicon
deriving DecidableEq, Repr

/-- `R_TRACKING` (R5 P15): the low seven bits of R as LD A, R sees them. -/
inductive RTracking where
  /-- the exact count of opcode fetches (R31; the default) -/
  | exact
  /-- a free value (decision D2) -/
  | draw
deriving DecidableEq, Repr

/-- The parameters of spec/00_scope.md R5 that have more than one setting in spec/92_eei_decisions.md. -/
structure Params where
  /-- P9 `SLL_BIT0`: the bit SLL shifts into bit 0 -/
  sllBit0 : Bool
  /-- P10 `OUT_C_0_VALUE`: the byte OUT (C), 0 writes -/
  outC0 : Byte
  /-- P11 `ED_UNLISTED` -/
  edUnlisted : Unlisted
  /-- P12 `IDX_UNLISTED` -/
  idxUnlisted : Unlisted
  /-- P13 `XY_OPEN` -/
  xyOpen : OpenFlags
  /-- P14 `BLOCK_IO_FLAGS` -/
  blockIoFlags : OpenFlags
  /-- P15 `R_TRACKING` -/
  rTracking : RTracking
  /-- P16 `RETI_COPIES_IFF2` -/
  retiCopiesIff2 : Bool
deriving DecidableEq, Repr

/-- The default settings of spec/00_scope.md R5. -/
def Params.default : Params where
  sllBit0 := true
  outC0 := 0x00
  edUnlisted := .refuse
  idxUnlisted := .refuse
  xyOpen := .draw
  blockIoFlags := .draw
  rTracking := .exact
  retiCopiesIff2 := true

/-- The free values (`draw(n)` of spec/00_scope.md R9): the machine takes the one at its counter and advances
the counter, so no two are the same one. It has no body: nothing can be proved of any value (log 5). -/
opaque Config.freeByte : Nat → Byte

end Sys2Proof
end

