-- ==== Sys2Proof/Machine/State.lean ====
section
/-!
DEFINITION. The state of the machine, the ways a step can stop, and the state after reset (spec/10_state.md;
spec/20_memory.md; spec/60_exceptions.md R601, R610; spec/70_reset_and_hazards.md R700). INVENTORY.md lists every field.
-/
namespace Sys2Proof.Machine

/-- The flag register F, one Boolean for each bit, bit 7 first (R40). All eight are stored (log 16). -/
structure Flags where
  /-- bit 7, Sign -/
  s : Bool
  /-- bit 6, Zero -/
  z : Bool
  /-- bit 5 -/
  y : Bool
  /-- bit 4, Half Carry -/
  h : Bool
  /-- bit 3 -/
  x : Bool
  /-- bit 2, Parity/Overflow -/
  pv : Bool
  /-- bit 1, Add/Subtract -/
  n : Bool
  /-- bit 0, Carry -/
  c : Bool
deriving DecidableEq, Repr

/-- A register set: A, F, B, C, D, E, H, L, or their alternates (R20, R22). -/
structure Bank where
  a : Byte
  f : Flags
  b : Byte
  c : Byte
  d : Byte
  e : Byte
  h : Byte
  l : Byte
deriving DecidableEq, Repr

/-- The interrupt mode IM (R34). -/
inductive IMode where
  | im0 | im1 | im2
deriving DecidableEq, Repr

/-- A port access, as the environment sees it (R79, R80; log 7). -/
inductive IoEvent where
  /-- a read of `port` that the environment answered with `value` -/
  | read (port : Word) (value : Byte)
  /-- a write of `value` to `port` -/
  | write (port : Word) (value : Byte)
deriving DecidableEq, Repr

/-- The environment's inputs at one step boundary (R610; log 8). -/
structure BoundaryInput where
  /-- `NMI` was raised since the last boundary -/
  nmi : Bool
  /-- the level of `INT` -/
  int : Bool
  /-- `INT_BUS_BYTE` -/
  busByte : Byte
  /-- `RESET` -/
  reset : Bool
deriving DecidableEq, Repr

/-- No input active. -/
def BoundaryInput.quiet : BoundaryInput := ⟨false, false, 0x00, false⟩

/-- Memory: address and byte, addresses strictly rising, no byte that an unlisted address reads as anyway. -/
abbrev Memory := List Host.Cell

/-- The machine. -/
structure State where
  /-- A, F, B, C, D, E, H, L (R20, R40) -/
  main : Bank
  /-- A', F', B', C', D', E', H', L' (R22) -/
  alt : Bank
  /-- R23 -/
  ix : Word
  /-- R23 -/
  iy : Word
  /-- R24 -/
  sp : Word
  /-- R30 -/
  pc : Word
  /-- R32 -/
  i : Byte
  /-- R31 -/
  r : Byte
  /-- R33 -/
  iff1 : Bool
  /-- R33 -/
  iff2 : Bool
  /-- R34 -/
  im : IMode
  /-- R35 -/
  halted : Bool
  /-- `ei_pending`, R36 -/
  eiPending : Bool
  /-- `nmi_pending`, R37 -/
  nmiPending : Bool
  /-- the 65536 bytes of memory, R71 -/
  mem : Memory
  /-- the port accesses made, oldest first (R80; log 7) -/
  io : List IoEvent
  /-- the model's own: the environment's answers to the next port reads (log 6) -/
  portIn : List Byte
  /-- the model's own: the inputs at the next step boundaries (log 8) -/
  inputs : List BoundaryInput
  /-- the model's own: the number of the next free value (log 5) -/
  draws : Nat
  /-- the parameters of spec/00_scope.md R5, which no step changes (log 1) -/
  cfg : Params
deriving DecidableEq, Repr

/-- The ways the machine stops. -/
inductive Fault where
  /-- Raised by the fetch when every byte of memory is DD or FD: a run of them never ends, and the step does not complete
  (R122, a hang; log 11). Safe: the hardware does no more than the model. -/
  | prefixHang
deriving DecidableEq, Repr

/-- What the spec gives no meaning to. -/
inductive Refusal where
  /-- Raised by no instruction of this model: an instruction that has no meaning yet. Safe. -/
  | notModelled (mnemonic : String)
  /-- `Refuse(ED_UNLISTED)`: an ED opcode the source does not list, while `ED_UNLISTED = refuse` (R141; log 12). Safe. -/
  | edUnlisted (op : Byte)
  /-- `Refuse(IDX_UNLISTED)`: DD or FD before an opcode outside the admitted set, while `IDX_UNLISTED = refuse` (R142,
  R480; log 13). Safe. -/
  | idxUnlisted (op : Byte)
  /-- `Refuse(IM0_NON_RST)`: a maskable interrupt in mode 0 with a bus byte that is no RST opcode (R614; log 14). Safe. -/
  | im0NonRst (busByte : Byte)
deriving DecidableEq, Repr

/-! ### One update for each field; nothing writes `cfg` -/

def State.setMain (s : State) (v : Bank) : State := { s with main := v }
def State.setAlt (s : State) (v : Bank) : State := { s with alt := v }
def State.setIx (s : State) (v : Word) : State := { s with ix := v }
def State.setIy (s : State) (v : Word) : State := { s with iy := v }
def State.setSp (s : State) (v : Word) : State := { s with sp := v }
def State.setPc (s : State) (v : Word) : State := { s with pc := v }
def State.setI (s : State) (v : Byte) : State := { s with i := v }
def State.setR (s : State) (v : Byte) : State := { s with r := v }
def State.setIff1 (s : State) (v : Bool) : State := { s with iff1 := v }
def State.setIff2 (s : State) (v : Bool) : State := { s with iff2 := v }
def State.setIm (s : State) (v : IMode) : State := { s with im := v }
def State.setHalted (s : State) (v : Bool) : State := { s with halted := v }
def State.setEiPending (s : State) (v : Bool) : State := { s with eiPending := v }
def State.setNmiPending (s : State) (v : Bool) : State := { s with nmiPending := v }
def State.setMem (s : State) (v : Memory) : State := { s with mem := v }
def State.setIo (s : State) (v : List IoEvent) : State := { s with io := v }
def State.setPortIn (s : State) (v : List Byte) : State := { s with portIn := v }
def State.setInputs (s : State) (v : List BoundaryInput) : State := { s with inputs := v }
def State.setDraws (s : State) (v : Nat) : State := { s with draws := v }

/-! ### Reset -/

/-- The main set right after reset: silicon's AF = 0xFFFF, to which R50 points; the rest zero (DESIGN CHOICE, log 2). -/
def Bank.resetMain : Bank where
  a := 0xFF
  f := ⟨true, true, true, true, true, true, true, true⟩
  b := 0x00
  c := 0x00
  d := 0x00
  e := 0x00
  h := 0x00
  l := 0x00

/-- The alternate set right after reset (DESIGN CHOICE, log 2). -/
def Bank.resetAlt : Bank where
  a := 0x00
  f := ⟨false, false, false, false, false, false, false, false⟩
  b := 0x00
  c := 0x00
  d := 0x00
  e := 0x00
  h := 0x00
  l := 0x00

/-- The machine right after reset (R50, R700). IX, IY and SP are DESIGN CHOICEs (log 2), as are the model's own
fields (logs 5, 6, 8). -/
def State.reset : State where
  main := Bank.resetMain
  alt := Bank.resetAlt
  ix := 0x0000
  iy := 0x0000
  sp := 0xFFFF
  pc := 0x0000
  i := 0x00
  r := 0x00
  iff1 := false
  iff2 := false
  im := .im0
  halted := false
  eiPending := false
  nmiPending := false
  mem := []
  io := []
  portIn := []
  inputs := []
  draws := 0
  cfg := Params.default

end Sys2Proof.Machine
end

