-- ==== Sys2Proof/Machine/Flags.lean ====
section
/-!
DEFINITION. Every flag computation of spec/10_state.md: the byte F (R40), SZXY and the 8-bit functions (R42), the 16-bit
functions and the rotates (R43), block I/O (R45), the conditions (R46), and those the instruction rules give.
-/
namespace Sys2Proof.Machine

/-- The byte F (R40). -/
def Flags.toByte (f : Flags) : Byte :=
  BitVec.ofBool f.s ++ BitVec.ofBool f.z ++ BitVec.ofBool f.y ++ BitVec.ofBool f.h
    ++ BitVec.ofBool f.x ++ BitVec.ofBool f.pv ++ BitVec.ofBool f.n ++ BitVec.ofBool f.c

/-- The flags a byte holds (R40). -/
def Flags.ofByte (v : Byte) : Flags where
  s := v.getLsbD 7
  z := v.getLsbD 6
  y := v.getLsbD 5
  h := v.getLsbD 4
  x := v.getLsbD 3
  pv := v.getLsbD 2
  n := v.getLsbD 1
  c := v.getLsbD 0

/-- `parity(v)` of R8: true when the number of 1 bits is even. -/
def parity (v : Byte) : Bool :=
  !(v.getLsbD 7 ^^ v.getLsbD 6 ^^ v.getLsbD 5 ^^ v.getLsbD 4 ^^ v.getLsbD 3 ^^ v.getLsbD 2 ^^ v.getLsbD 1 ^^ v.getLsbD 0)

/-- `SZXY(res)` of R42, on the flags `f`. -/
def Flags.szxy (f : Flags) (res : Byte) : Flags :=
  { f with s := res.getLsbD 7, z := decide (res = 0), y := res.getLsbD 5, x := res.getLsbD 3 }

/-- Bits 5 and 3 of a byte, as Y and X. -/
def bits53 (v : Byte) : Bool × Bool := (v.getLsbD 5, v.getLsbD 3)

/-! ### 8-bit arithmetic and logic (R42) -/

/-- `ADD8(a, b, cin)`. -/
def add8 (a b : Byte) (cin : Bool) : Byte × Flags :=
  let sum := a.toNat + b.toNat + cin.toNat
  let res := BitVec.ofNat 8 sum
  (res,
    { s := res.getLsbD 7, z := decide (res = 0), y := res.getLsbD 5,
      h := decide (a.toNat % 16 + b.toNat % 16 + cin.toNat > 15), x := res.getLsbD 3,
      pv := a.getLsbD 7 == b.getLsbD 7 && res.getLsbD 7 != a.getLsbD 7, n := false, c := decide (sum > 255) })

/-- `SUB8(a, b, cin)`. -/
def sub8 (a b : Byte) (cin : Bool) : Byte × Flags :=
  let res := a - b - BitVec.ofNat 8 cin.toNat
  (res,
    { s := res.getLsbD 7, z := decide (res = 0), y := res.getLsbD 5,
      h := decide (a.toNat % 16 < b.toNat % 16 + cin.toNat), x := res.getLsbD 3,
      pv := a.getLsbD 7 != b.getLsbD 7 && res.getLsbD 7 != a.getLsbD 7, n := true,
      c := decide (a.toNat < b.toNat + cin.toNat) })

/-- `LOGIC(res, h)`. -/
def logic8 (res : Byte) (h : Bool) : Flags :=
  { s := res.getLsbD 7, z := decide (res = 0), y := res.getLsbD 5, h := h, x := res.getLsbD 3, pv := parity res,
    n := false, c := false }

/-- `INC8(v)`; C is kept. -/
def inc8 (v : Byte) (f : Flags) : Byte × Flags :=
  let res := v + 1
  (res, { f.szxy res with h := decide (res.toNat % 16 = 0), pv := decide (res = 0x80), n := false })

/-- `DEC8(v)`; C is kept. -/
def dec8 (v : Byte) (f : Flags) : Byte × Flags :=
  let res := v - 1
  (res, { f.szxy res with h := decide (res.toNat % 16 = 15), pv := decide (res = 0x7F), n := true })

/-! ### 16-bit arithmetic (R43); Y and X are left as they were, for R44 -/

/-- `ADD16(a, b)`; S, Z, P/V are kept. -/
def add16 (a b : Word) (f : Flags) : Word × Flags :=
  let sum := a.toNat + b.toNat
  (BitVec.ofNat 16 sum,
    { f with h := decide (a.toNat % 4096 + b.toNat % 4096 > 0xFFF), n := false, c := decide (sum > 0xFFFF) })

/-- `ADC16(a, b, cin)`, cin being C. -/
def adc16 (a b : Word) (f : Flags) : Word × Flags :=
  let sum := a.toNat + b.toNat + f.c.toNat
  let res := BitVec.ofNat 16 sum
  (res,
    { f with
      s := res.getLsbD 15, z := decide (res = 0),
      h := decide (a.toNat % 4096 + b.toNat % 4096 + f.c.toNat > 0xFFF),
      pv := a.getLsbD 15 == b.getLsbD 15 && res.getLsbD 15 != a.getLsbD 15, n := false, c := decide (sum > 0xFFFF) })

/-- `SBC16(a, b, cin)`, cin being C. -/
def sbc16 (a b : Word) (f : Flags) : Word × Flags :=
  let res := a - b - BitVec.ofNat 16 f.c.toNat
  (res,
    { f with
      s := res.getLsbD 15, z := decide (res = 0),
      h := decide (a.toNat % 4096 < b.toNat % 4096 + f.c.toNat),
      pv := a.getLsbD 15 != b.getLsbD 15 && res.getLsbD 15 != a.getLsbD 15, n := true,
      c := decide (a.toNat < b.toNat + f.c.toNat) })

/-! ### Rotates and shifts (R43) -/

/-- `v[6:0] ## b`. -/
def shiftLeftIn (v : Byte) (b : Bool) : Byte := v.extractLsb' 0 7 ++ BitVec.ofBool b

/-- `b ## v[7:1]`. -/
def shiftRightIn (v : Byte) (b : Bool) : Byte := BitVec.ofBool b ++ v.extractLsb' 1 7

/-- `ROT(y, v)`, carry in `cin`, the bit SLL shifts in `sllBit0`: the result and the carry out. -/
def rot (o : Rot) (v : Byte) (cin sllBit0 : Bool) : Byte × Bool :=
  match o with
  | .rlc => (shiftLeftIn v (v.getLsbD 7), v.getLsbD 7)
  | .rrc => (shiftRightIn v (v.getLsbD 0), v.getLsbD 0)
  | .rl => (shiftLeftIn v cin, v.getLsbD 7)
  | .rr => (shiftRightIn v cin, v.getLsbD 0)
  | .sla => (shiftLeftIn v false, v.getLsbD 7)
  | .sra => (shiftRightIn v (v.getLsbD 7), v.getLsbD 0)
  | .sll => (shiftLeftIn v sllBit0, v.getLsbD 7)
  | .srl => (shiftRightIn v false, v.getLsbD 0)

/-- The flags of a rotate or shift on the CB, DD CB and FD CB pages (spec/44_cb_prefix.md, the frame of R340 to R347). -/
def rotFlags (res : Byte) (cout : Bool) : Flags :=
  { s := res.getLsbD 7, z := decide (res = 0), y := res.getLsbD 5, h := false, x := res.getLsbD 3, pv := parity res,
    n := false, c := cout }

/-- The flags of RLCA, RRCA, RLA, RRA (R223): S, Z, P/V are kept. -/
def rotAFlags (f : Flags) (res : Byte) (cout : Bool) : Flags :=
  { f with y := res.getLsbD 5, h := false, x := res.getLsbD 3, n := false, c := cout }

/-! ### The other instructions that write flags -/

/-- DAA (R227). -/
def daa8 (a : Byte) (f : Flags) : Byte × Flags :=
  let low := f.h || decide (a.toNat % 16 > 9)
  let high := f.c || decide (a.toNat > 0x99)
  let corr : Byte := (if low then 0x06 else 0x00) ||| (if high then 0x60 else 0x00)
  let res := if f.n then a - corr else a + corr
  (res, { f.szxy res with h := a.getLsbD 4 ^^ res.getLsbD 4, pv := parity res, c := high })

/-- CPL (R228), from the new A. -/
def cplFlags (f : Flags) (res : Byte) : Flags :=
  { f with y := res.getLsbD 5, h := true, x := res.getLsbD 3, n := true }

/-- SCF (R229); Y and X are left for R44. -/
def scfFlags (f : Flags) : Flags := { f with h := false, n := false, c := true }

/-- CCF (R230); Y and X are left for R44. -/
def ccfFlags (f : Flags) : Flags := { f with h := f.c, n := false, c := !f.c }

/-- BIT b (R350), `t` the tested bit; Y and X are left for R44. -/
def bitFlags (f : Flags) (b : Fin 8) (t : Bool) : Flags :=
  { f with s := decide (b = 7) && t, z := !t, h := true, pv := !t, n := false }

/-- IN r, (C), IN F, (C), RLD and RRD (R370, R371, R386, R387): C is kept. -/
def inFlags (f : Flags) (v : Byte) : Flags :=
  { f.szxy v with h := false, pv := parity v, n := false }

/-- LD A, I and LD A, R (R384, R385): P/V is IFF2, C is kept. -/
def loadIRFlags (f : Flags) (v : Byte) (iff2 : Bool) : Flags :=
  { f.szxy v with h := false, pv := iff2, n := false }

/-- LDI and its kin (R420), from BC after the decrement; Y and X are left for R44. -/
def blockLoadFlags (f : Flags) (bc : Word) : Flags :=
  { f with h := false, pv := decide (bc ≠ 0), n := false }

/-- CPI and its kin (R421), `res` = A - `t`, from BC after the decrement; Y and X are left for R44. -/
def blockCompareFlags (f : Flags) (a t : Byte) (bc : Word) : Flags :=
  let res := a - t
  { f with s := res.getLsbD 7, z := decide (res = 0), h := decide (a.toNat % 16 < t.toNat % 16),
           pv := decide (bc ≠ 0), n := true }

/-- R45 under `BLOCK_IO_FLAGS = silicon`: `b` is B after the decrement, `t` the byte moved, `j` the 8-bit value it is
added to. -/
def blockIoSilicon (b t j : Byte) : Flags :=
  let k := t.toNat + j.toNat
  { s := b.getLsbD 7, z := decide (b = 0), y := b.getLsbD 5, h := decide (k > 255), x := b.getLsbD 3,
    pv := parity (BitVec.ofNat 8 (k % 8) ^^^ b), n := t.getLsbD 7, c := decide (k > 255) }

/-! ### Conditions (R46) -/

/-- `cond(c)`. -/
def Flags.cond (f : Flags) (cc : Cond) : Bool :=
  match cc with
  | .nz => !f.z
  | .z => f.z
  | .nc => !f.c
  | .c => f.c
  | .po => !f.pv
  | .pe => f.pv
  | .p => !f.s
  | .m => f.s

/-- The condition of JR cc (R204). -/
def Flags.jrCond (f : Flags) (cc : JrCond) : Bool :=
  match cc with
  | .nz => !f.z
  | .z => f.z
  | .nc => !f.c
  | .c => f.c

end Sys2Proof.Machine
end

