-- ==== Sys2Proof/Machine/Memory.lean ====
section
/-!
DEFINITION. The 65536 bytes of memory (spec/20_memory.md R71), all of them plain RAM (R86; log 4), as a list in one
canonical form.
-/
namespace Sys2Proof.Machine

/-- What an unlisted address reads as: the content at launch, which the spec leaves open (DESIGN CHOICE, log 3). -/
def unlistedByte : Byte := 0x00

/-- The byte at an address. -/
def Memory.read (m : Memory) (k : Nat) : Byte :=
  match m with
  | [] => unlistedByte
  | (a, v) :: rest => if a = k then v else Memory.read rest k

/-- The memory with `v` at address `k`; writing what an unlisted address reads as takes the entry away. -/
def Memory.write (m : Memory) (k : Nat) (v : Byte) : Memory :=
  match m with
  | [] => if v = unlistedByte then [] else [(k, v)]
  | (a, w) :: rest =>
    if k < a then (if v = unlistedByte then (a, w) :: rest else (k, v) :: (a, w) :: rest)
    else if k = a then (if v = unlistedByte then rest else (k, v) :: rest)
    else (a, w) :: Memory.write rest k v

/-- Every address of `m` is at least `low` and below 65536, addresses rise, and no entry is what an unlisted address
reads as. -/
def Memory.wfFrom (low : Nat) (m : Memory) : Bool :=
  match m with
  | [] => true
  | (a, v) :: rest => decide (low ≤ a) && decide (a < 65536) && decide (v ≠ unlistedByte) && Memory.wfFrom (a + 1) rest

/-- The canonical form. -/
def Memory.wf (m : Memory) : Bool := Memory.wfFrom 0 m

end Sys2Proof.Machine
end

