-- ==== Sys2Proof/Machine/Ops.lean ====
section
/-!
DEFINITION. The named operations over registers, memory, ports, free values, the stack and the program counter, and the
entry to and return from an interrupt handler.
-/
namespace Sys2Proof.Machine

/-- The answer of a step or of an instruction. -/
abbrev Result := Host.Outcome State Fault Refusal

/-! ### Register pairs (R21) and 8-bit registers (R20) -/

def Bank.bc (b : Bank) : Word := pair b.b b.c
def Bank.de (b : Bank) : Word := pair b.d b.e
def Bank.hl (b : Bank) : Word := pair b.h b.l
def Bank.setA (b : Bank) (v : Byte) : Bank := { b with a := v }
def Bank.setF (b : Bank) (f : Flags) : Bank := { b with f := f }
def Bank.setB (b : Bank) (v : Byte) : Bank := { b with b := v }
def Bank.setBc (b : Bank) (v : Word) : Bank := { b with b := hi v, c := lo v }
def Bank.setDe (b : Bank) (v : Word) : Bank := { b with d := hi v, e := lo v }
def Bank.setHl (b : Bank) (v : Word) : Bank := { b with h := hi v, l := lo v }

/-- `r[i]` of R112. -/
def Bank.reg (b : Bank) (r : Reg8) : Byte :=
  match r with
  | .b => b.b
  | .c => b.c
  | .d => b.d
  | .e => b.e
  | .h => b.h
  | .l => b.l
  | .a => b.a

/-- `r[i] <- v`. -/
def Bank.setReg (b : Bank) (r : Reg8) (v : Byte) : Bank :=
  match r with
  | .b => { b with b := v }
  | .c => { b with c := v }
  | .d => { b with d := v }
  | .e => { b with e := v }
  | .h => { b with h := v }
  | .l => { b with l := v }
  | .a => { b with a := v }

def State.reg (s : State) (r : Reg8) : Byte := s.main.reg r
def State.setReg (s : State) (r : Reg8) (v : Byte) : State := s.setMain (s.main.setReg r v)
def State.setA (s : State) (v : Byte) : State := s.setMain (s.main.setA v)
def State.setF (s : State) (f : Flags) : State := s.setMain (s.main.setF f)
def State.setB (s : State) (v : Byte) : State := s.setMain (s.main.setB v)
def State.setBc (s : State) (v : Word) : State := s.setMain (s.main.setBc v)
def State.setDe (s : State) (v : Word) : State := s.setMain (s.main.setDe v)
def State.setHl (s : State) (v : Word) : State := s.setMain (s.main.setHl v)

/-- `rp[p]` of R113. -/
def State.rp (s : State) (p : Rp) : Word :=
  match p with
  | .bc => s.main.bc
  | .de => s.main.de
  | .hl => s.main.hl
  | .sp => s.sp

/-- `rp[p] <- v`. -/
def State.setRp (s : State) (p : Rp) (v : Word) : State :=
  match p with
  | .bc => s.setBc v
  | .de => s.setDe v
  | .hl => s.setHl v
  | .sp => s.setSp v

/-- `rp2[p]` of R113, AF apart. -/
def State.rpPush (s : State) (p : RpPush) : Word :=
  match p with
  | .bc => s.main.bc
  | .de => s.main.de
  | .hl => s.main.hl

/-- `rp2[p] <- v`, AF apart. -/
def State.setRpPush (s : State) (p : RpPush) (v : Word) : State :=
  match p with
  | .bc => s.setBc v
  | .de => s.setDe v
  | .hl => s.setHl v

/-- `XY` of spec/47_dd_fd_index.md. -/
def State.xy (s : State) (x : IndexReg) : Word :=
  match x with
  | .ix => s.ix
  | .iy => s.iy

/-- `XY <- v`. -/
def State.setXy (s : State) (x : IndexReg) (v : Word) : State :=
  match x with
  | .ix => s.setIx v
  | .iy => s.setIy v

/-- The source of ADD XY, rr (R456). -/
def State.rpIndex (s : State) (x : IndexReg) (p : RpIndex) : Word :=
  match p with
  | .bc => s.main.bc
  | .de => s.main.de
  | .xy => s.xy x
  | .sp => s.sp

/-! ### Memory (R73 to R76) -/

/-- `MemRead(addr, 1)`. -/
def State.readByte (s : State) (addr : Word) : Byte := s.mem.read addr.toNat

/-- `MemWrite(addr, 1, v)`. -/
def State.writeByte (s : State) (addr : Word) (v : Byte) : State := s.setMem (s.mem.write addr.toNat v)

/-- `MemRead(addr, 2)`. -/
def State.readWord (s : State) (addr : Word) : Word := pair (s.readByte (addr + 1)) (s.readByte addr)

/-- `MemWrite(addr, 2, v)`: the byte at the lower address first. -/
def State.writeWord (s : State) (addr : Word) (v : Word) : State :=
  (s.writeByte addr (lo v)).writeByte (addr + 1) (hi v)

/-! ### The stack (R77, R78) -/

/-- `Push16(v)`: the high byte first. -/
def State.push (s : State) (v : Word) : State :=
  ((s.writeByte (s.sp - 1) (hi v)).writeByte (s.sp - 2) (lo v)).setSp (s.sp - 2)

/-- What `Pop16()` answers. -/
def State.popValue (s : State) : Word := s.readWord s.sp

/-- What `Pop16()` does to SP. -/
def State.popStack (s : State) : State := s.setSp (s.sp + 2)

/-! ### Free values (`draw(n)` of R9; log 5) -/

/-- The next free value. -/
def State.draw (s : State) : Byte := Config.freeByte s.draws

/-- It is taken: the next one is another. -/
def State.drawn (s : State) : State := s.setDraws (s.draws + 1)

/-! ### Ports (R72, R79, R80; logs 6 and 7) -/

/-- `IoRead(port)`: the environment's answer, or a free value where none is lined up. -/
def State.portAnswer (s : State) : Byte :=
  match s.portIn with
  | [] => s.draw
  | v :: _ => v

/-- The answer is taken. -/
def State.portTaken (s : State) : State :=
  match s.portIn with
  | [] => s.drawn
  | _ :: rest => s.setPortIn rest

/-- What a port read leaves: the answer taken, and the read recorded. -/
def State.afterPortRead (s : State) (port : Word) : State :=
  s.portTaken.setIo (s.io ++ [IoEvent.read port s.portAnswer])

/-- `IoWrite(port, v)`: the pair is recorded, in program order. -/
def State.portWrite (s : State) (port : Word) (v : Byte) : State :=
  s.setIo (s.io ++ [IoEvent.write port v])

/-! ### Flag bits 5 and 3 after the XY-open set (R44) -/

/-- Y and X. `silicon` is R44's right column, none where it leaves them a draw under both settings. -/
def State.openXY (s : State) (silicon : Option (Bool × Bool)) : Bool × Bool :=
  match s.cfg.xyOpen, silicon with
  | .silicon, some v => v
  | _, _ => bits53 s.draw

/-- The free value is taken, where one is. -/
def State.openTaken (s : State) (silicon : Option (Bool × Bool)) : State :=
  match s.cfg.xyOpen, silicon with
  | .silicon, some _ => s
  | _, _ => s.drawn

/-- F is `f` but for Y and X, which are open. -/
def State.setOpenF (s : State) (f : Flags) (silicon : Option (Bool × Bool)) : State :=
  (s.openTaken silicon).setF { f with y := (s.openXY silicon).1, x := (s.openXY silicon).2 }

/-- F after block I/O (R45): Z from B after the decrement; the rest free, or silicon's. -/
def State.setBlockIoF (s : State) (b t j : Byte) : State :=
  match s.cfg.blockIoFlags with
  | .silicon => s.setF (blockIoSilicon b t j)
  | .draw => s.drawn.setF { Flags.ofByte s.draw with z := decide (b = 0) }

/-! ### R (R31), and the program counter -/

/-- R's low seven bits count one; bit 7 stays. -/
def nextR (r : Byte) : Byte := r.extractLsb' 7 1 ++ (r.extractLsb' 0 7 + 1)

/-- One opcode fetch, interrupt acceptance or halted step, as R counts them. -/
def State.countFetch (s : State) : State := s.setR (nextR s.r)

/-- A relative jump (R202, R203, R204): pc is already at the next instruction. -/
def State.jumpRelative (s : State) (d : Byte) : State := s.setPc (s.pc + sext16 d)

/-- A call (R308): pc is already at the next instruction. -/
def State.call (s : State) (target : Word) : State := (s.push s.pc).setPc target

/-- A return (R293). -/
def State.popPc (s : State) : State := s.popStack.setPc s.popValue

/-! ### Interrupt entry and return -/

/-- Which request is accepted. -/
inductive Request where
  | nmi | maskable
deriving DecidableEq, Repr

/-- What accepting an interrupt does before it pushes pc (R611, R613): the halt ends, one fetch is counted, and the
enables change: both flip-flops for the maskable interrupt; IFF1 alone, and the latch, for the other. -/
def State.acknowledge (s : State) (q : Request) : State :=
  let t := (((s.setHalted false).setEiPending false).countFetch).setIff1 false
  match q with
  | .nmi => t.setNmiPending false
  | .maskable => t.setIff2 false

/-- Taking an interrupt whose handler is at `target` (R611, R614, R615): pc is saved on the stack and nothing else is. -/
def State.enterHandler (s : State) (q : Request) (target : Word) : State := (s.acknowledge q).call target

/-- Taking an interrupt in mode 2 (R616): pc is pushed before the handler's address is read from the table. -/
def State.enterVectored (s : State) (vector : Word) : State :=
  let t := (s.acknowledge .maskable).push s.pc
  t.setPc (t.readWord vector)

/-- The RST target a bus byte stands for (R614), if it is an RST opcode. -/
def rstTarget (b : Byte) : Option Word :=
  if fieldX b = 3 ∧ fieldZ b = 7 then some (BitVec.ofNat 16 (8 * fieldY b)) else none

/-- Non-maskable interrupt entry (R611). -/
def State.nmiEntry (s : State) : State := s.enterHandler .nmi 0x0066

/-- Maskable interrupt entry, by mode (R613 to R616), `b` being INT_BUS_BYTE. -/
def State.intEntry (s : State) (b : Byte) : Result :=
  match s.im with
  | .im0 =>
    match rstTarget b with
    | some target => .next (s.enterHandler .maskable target)
    | none => .refused (.im0NonRst b)
  | .im1 => .next (s.enterHandler .maskable 0x0038)
  | .im2 => .next (s.enterVectored (pair s.i b))

/-- Return from a handler (R379, R380, R619): pc is popped, and IFF2 is copied to IFF1 where `copies` says so. -/
def State.returnFromHandler (s : State) (copies : Bool) : State :=
  if copies then s.popPc.setIff1 s.iff2 else s.popPc

/-! ### Reset (R700) -/

/-- The `k`-th free value from here on. -/
def State.drawAt (s : State) (k : Nat) : Byte := Config.freeByte (s.draws + k)

/-- A register set of eight free values, from the `k`-th on. -/
def State.freeBank (s : State) (k : Nat) : Bank where
  a := s.drawAt k
  f := Flags.ofByte (s.drawAt (k + 1))
  b := s.drawAt (k + 2)
  c := s.drawAt (k + 3)
  d := s.drawAt (k + 4)
  e := s.drawAt (k + 5)
  h := s.drawAt (k + 6)
  l := s.drawAt (k + 7)

/-- The reset action on a machine that runs (R700): what R700 leaves unspecified takes free values (log 17). -/
def State.resetAction (s : State) : State :=
  { s with
    pc := 0x0000
    iff1 := false
    iff2 := false
    im := .im0
    i := 0x00
    r := 0x00
    halted := false
    eiPending := false
    nmiPending := false
    main := s.freeBank 0
    alt := s.freeBank 8
    ix := pair (s.drawAt 16) (s.drawAt 17)
    iy := pair (s.drawAt 18) (s.drawAt 19)
    sp := pair (s.drawAt 20) (s.drawAt 21)
    draws := s.draws + 22 }

end Sys2Proof.Machine
end

