-- ==== Sys2Proof/Machine/Operands.lean ====
section
/-!
DEFINITION. The operand forms: r or (HL) (spec/42_main_x2_alu.md, spec/44_cb_prefix.md), (HL), (IX+d) and (IY+d)
(spec/47_dd_fd_index.md R462), and the shared operations that act on them.
-/
namespace Sys2Proof.Machine

/-! ### Effective addresses and operands -/

/-- `ea <- XY + sext_16(d)` (R462, R500). -/
def State.ea (s : State) (x : IndexReg) (d : Byte) : Word := s.xy x + sext16 d

/-- The byte at (IX+d) or (IY+d). -/
def State.readXyd (s : State) (x : IndexReg) (d : Byte) : Byte := s.readByte (s.ea x d)

/-- `v <- MemRead(HL, 1) if z = 6 else r[z]`. -/
def State.operand (s : State) (o : Operand8) : Byte :=
  match o with
  | .reg r => s.reg r
  | .hlInd => s.readByte s.main.hl

/-- `if z = 6: MemWrite(HL, 1, res) else r[z] <- res`. -/
def State.setOperand (s : State) (o : Operand8) (v : Byte) : State :=
  match o with
  | .reg r => s.setReg r v
  | .hlInd => s.writeByte s.main.hl v

/-! ### The eight operations on A (R270 to R277) -/

/-- A and F written together. -/
def State.setAF (s : State) (r : Byte × Flags) : State := (s.setA r.1).setF r.2

def State.aluAdd (s : State) (v : Byte) : State := s.setAF (add8 s.main.a v false)
def State.aluAdc (s : State) (v : Byte) : State := s.setAF (add8 s.main.a v s.main.f.c)
def State.aluSub (s : State) (v : Byte) : State := s.setAF (sub8 s.main.a v false)
def State.aluSbc (s : State) (v : Byte) : State := s.setAF (sub8 s.main.a v s.main.f.c)
def State.aluAnd (s : State) (v : Byte) : State := s.setAF (s.main.a &&& v, logic8 (s.main.a &&& v) true)
def State.aluXor (s : State) (v : Byte) : State := s.setAF (s.main.a ^^^ v, logic8 (s.main.a ^^^ v) false)
def State.aluOr (s : State) (v : Byte) : State := s.setAF (s.main.a ||| v, logic8 (s.main.a ||| v) false)

/-- A is kept; Y and X are open (R277). -/
def State.aluCp (s : State) (v : Byte) : State := s.setOpenF (sub8 s.main.a v false).2 (some (bits53 v))

/-! ### INC and DEC of a byte (R217 to R220, R463, R464) -/

def State.incReg (s : State) (r : Reg8) : State :=
  (s.setReg r (inc8 (s.reg r) s.main.f).1).setF (inc8 (s.reg r) s.main.f).2

def State.decReg (s : State) (r : Reg8) : State :=
  (s.setReg r (dec8 (s.reg r) s.main.f).1).setF (dec8 (s.reg r) s.main.f).2

def State.incAt (s : State) (addr : Word) : State :=
  (s.writeByte addr (inc8 (s.readByte addr) s.main.f).1).setF (inc8 (s.readByte addr) s.main.f).2

def State.decAt (s : State) (addr : Word) : State :=
  (s.writeByte addr (dec8 (s.readByte addr) s.main.f).1).setF (dec8 (s.readByte addr) s.main.f).2

/-! ### 16-bit arithmetic (R206, R374, R375, R456) -/

/-- Bits 13 and 11 of a 16-bit value, silicon's source of Y and X (R44). -/
def bits1311 (v : Word) : Bool × Bool := (v.getLsbD 13, v.getLsbD 11)

/-- HL and F from a 16-bit operation, Y and X open. -/
def State.setHlOpenF (s : State) (r : Word × Flags) : State := (s.setHl r.1).setOpenF r.2 (some (bits1311 r.1))

/-- IX or IY and F from a 16-bit operation, Y and X open. -/
def State.setXyOpenF (s : State) (x : IndexReg) (r : Word × Flags) : State :=
  (s.setXy x r.1).setOpenF r.2 (some (bits1311 r.1))

/-! ### Rotates, shifts, bits -/

/-- RLCA, RRCA, RLA, RRA (R223 to R226). -/
def State.rotA (s : State) (o : Rot) : State :=
  let r := rot o s.main.a s.main.f.c s.cfg.sllBit0
  s.setAF (r.1, rotAFlags s.main.f r.1 r.2)

/-- `ROT(y, v)` in this state: it reads C and `SLL_BIT0` (R43). -/
def State.rotResult (s : State) (o : Rot) (v : Byte) : Byte × Bool := rot o v s.main.f.c s.cfg.sllBit0

/-- The frame of R340 to R347. -/
def State.rotOperand (s : State) (o : Rot) (z : Operand8) : State :=
  let r := s.rotResult o (s.operand z)
  (s.setOperand z r.1).setF (rotFlags r.1 r.2)

/-- `1 << b`. -/
def bitMask (b : Fin 8) : Byte := BitVec.ofNat 8 (2 ^ b.val)

/-- `v & ~(1 << b)`. -/
def resBit (b : Fin 8) (v : Byte) : Byte := v &&& ~~~bitMask b

/-- `v | (1 << b)`. -/
def setBit (b : Fin 8) (v : Byte) : Byte := v ||| bitMask b

/-- BIT b on a byte (R350): F only. -/
def State.testBit (s : State) (b : Fin 8) (v : Byte) (silicon : Option (Bool × Bool)) : State :=
  s.setOpenF (bitFlags s.main.f b (v.getLsbD b.val)) silicon

/-- Rotate or shift of (IX+d) or (IY+d) (R501). -/
def State.rotXyd (s : State) (x : IndexReg) (o : Rot) (d : Byte) : State :=
  let r := s.rotResult o (s.readXyd x d)
  (s.writeByte (s.ea x d) r.1).setF (rotFlags r.1 r.2)

/-- The same, the result also to a register (R505). -/
def State.rotXydReg (s : State) (x : IndexReg) (o : Rot) (d : Byte) (r : Reg8) : State :=
  (s.rotXyd x o d).setReg r (s.rotResult o (s.readXyd x d)).1

/-- A byte at (IX+d) or (IY+d) written, and a register too (R505). -/
def State.writeXydReg (s : State) (x : IndexReg) (d : Byte) (r : Reg8) (v : Byte) : State :=
  (s.writeByte (s.ea x d) v).setReg r v

/-! ### RRD and RLD (R386, R387) -/

/-- `x[3:0]`, `x[7:4]` and `a ## b` of nibbles. -/
def lowNibble (v : Byte) : BitVec 4 := v.extractLsb' 0 4
def highNibble (v : Byte) : BitVec 4 := v.extractLsb' 4 4
def nibbles (h l : BitVec 4) : Byte := h ++ l

/-- The byte at HL and A written; F from the new A. -/
def State.setDecimal (s : State) (m a : Byte) : State :=
  (s.writeByte s.main.hl m).setAF (a, inFlags s.main.f a)

/-! ### Stack exchange (R301, R459) -/

/-- What EX (SP), HL writes: the high byte first. -/
def State.exchangeTop (s : State) (v : Word) : State :=
  (s.writeByte (s.sp + 1) (hi v)).writeByte s.sp (lo v)

/-! ### Block instructions (spec/46_ed_block.md) -/

/-- Increment or decrement. -/
inductive Dir where
  | inc | dec
deriving DecidableEq, Repr

/-- `v + 1` or `v - 1`. -/
def Dir.step (k : Dir) (v : Word) : Word :=
  match k with
  | .inc => v + 1
  | .dec => v - 1

/-- LDI and LDD (R420, R424). -/
def State.blockLoad (s : State) (k : Dir) : State :=
  let t := s.readByte s.main.hl
  let bc := s.main.bc - 1
  let sum := s.main.a + t
  ((((s.writeByte s.main.de t).setHl (k.step s.main.hl)).setDe (k.step s.main.de)).setBc bc).setOpenF
    (blockLoadFlags s.main.f bc) (some (sum.getLsbD 1, sum.getLsbD 3))

/-- Silicon's Y and X after CPI and its kin (R44): from A - byte - H. -/
def compareXY (a t : Byte) (h : Bool) : Bool × Bool :=
  let k := a - t - BitVec.ofNat 8 h.toNat
  (k.getLsbD 1, k.getLsbD 3)

/-- CPI and CPD (R421, R425). -/
def State.blockCompare (s : State) (k : Dir) : State :=
  let t := s.readByte s.main.hl
  let bc := s.main.bc - 1
  let f := blockCompareFlags s.main.f s.main.a t bc
  ((s.setHl (k.step s.main.hl)).setBc bc).setOpenF f (some (compareXY s.main.a t f.h))

/-- The 8-bit value silicon adds to the byte of a block input (R45): C + 1 or C - 1. -/
def Dir.inputIndex (k : Dir) (c : Byte) : Byte :=
  match k with
  | .inc => c + 1
  | .dec => c - 1

/-- INI and IND (R422, R426): the port's high byte is B before the decrement. -/
def State.blockIn (s : State) (k : Dir) : State :=
  let t := s.portAnswer
  let b := s.main.b - 1
  ((((s.afterPortRead s.main.bc).writeByte s.main.hl t).setHl (k.step s.main.hl)).setB b).setBlockIoF b t
    (k.inputIndex s.main.c)

/-- OUTI and OUTD (R423, R427): the port's high byte is B after the decrement. -/
def State.blockOut (s : State) (k : Dir) : State :=
  let t := s.readByte s.main.hl
  let b := s.main.b - 1
  let hl := k.step s.main.hl
  (((s.setB b).portWrite (pair b s.main.c) t).setHl hl).setBlockIoF b t (lo hl)

/-- The repetition of a block instruction: pc goes back to the ED byte when `again`. -/
def State.repeatIf (s : State) (again : Bool) : State := if again then s.setPc (s.pc - 2) else s

/-- The repetition test of LDIR and LDDR, and half of CPIR's: BC after the decrement is not 0. -/
def State.bcRunsOn (s : State) : Bool := decide (s.main.bc - 1 ≠ 0)

/-- The other half of CPIR's: no match (F.Z = 0 after the compare). -/
def State.noMatch (s : State) : Bool := decide (s.main.a - s.readByte s.main.hl ≠ 0)

/-- The repetition test of INIR, INDR, OTIR, OTDR: B after the decrement is not 0. -/
def State.bRunsOn (s : State) : Bool := decide (s.main.b - 1 ≠ 0)

end Sys2Proof.Machine
end

