-- ==== Sys2Proof/Machine/Block.lean ====
section
/-!
DEFINITION. The block instructions (spec/46_ed_block.md R420 to R435).
-/
namespace Sys2Proof.Machine

/-- LDI (R420). -/
def execLdi (s : State) : Result := .next (s.blockLoad .inc)

/-- LDD (R424). -/
def execLdd (s : State) : Result := .next (s.blockLoad .dec)

/-- LDIR (R428). -/
def execLdir (s : State) : Result := .next ((s.blockLoad .inc).repeatIf s.bcRunsOn)

/-- LDDR (R432). -/
def execLddr (s : State) : Result := .next ((s.blockLoad .dec).repeatIf s.bcRunsOn)

/-- CPI (R421). -/
def execCpi (s : State) : Result := .next (s.blockCompare .inc)

/-- CPD (R425). -/
def execCpd (s : State) : Result := .next (s.blockCompare .dec)

/-- CPIR (R429). -/
def execCpir (s : State) : Result := .next ((s.blockCompare .inc).repeatIf (s.bcRunsOn && s.noMatch))

/-- CPDR (R433). -/
def execCpdr (s : State) : Result := .next ((s.blockCompare .dec).repeatIf (s.bcRunsOn && s.noMatch))

/-- INI (R422). -/
def execIni (s : State) : Result := .next (s.blockIn .inc)

/-- IND (R426). -/
def execInd (s : State) : Result := .next (s.blockIn .dec)

/-- INIR (R430). -/
def execInir (s : State) : Result := .next ((s.blockIn .inc).repeatIf s.bRunsOn)

/-- INDR (R434). -/
def execIndr (s : State) : Result := .next ((s.blockIn .dec).repeatIf s.bRunsOn)

/-- OUTI (R423). -/
def execOuti (s : State) : Result := .next (s.blockOut .inc)

/-- OUTD (R427). -/
def execOutd (s : State) : Result := .next (s.blockOut .dec)

/-- OTIR (R431). -/
def execOtir (s : State) : Result := .next ((s.blockOut .inc).repeatIf s.bRunsOn)

/-- OTDR (R435). -/
def execOtdr (s : State) : Result := .next ((s.blockOut .dec).repeatIf s.bRunsOn)

end Sys2Proof.Machine
end

