-- ==== Sys2Proof/Machine/CbPage.lean ====
section
/-!
DEFINITION. The CB page (spec/44_cb_prefix.md R340 to R355).
-/
namespace Sys2Proof.Machine

/-- RLC r, (HL) included (R340). -/
def execRlcR (r : Operand8) (s : State) : Result := .next (s.rotOperand .rlc r)

/-- RRC r, (HL) included (R341). -/
def execRrcR (r : Operand8) (s : State) : Result := .next (s.rotOperand .rrc r)

/-- RL r, (HL) included (R342). -/
def execRlR (r : Operand8) (s : State) : Result := .next (s.rotOperand .rl r)

/-- RR r, (HL) included (R343). -/
def execRrR (r : Operand8) (s : State) : Result := .next (s.rotOperand .rr r)

/-- SLA r, (HL) included (R344). -/
def execSlaR (r : Operand8) (s : State) : Result := .next (s.rotOperand .sla r)

/-- SRA r, (HL) included (R345). -/
def execSraR (r : Operand8) (s : State) : Result := .next (s.rotOperand .sra r)

/-- SLL r, (HL) included (R346). -/
def execSllR (r : Operand8) (s : State) : Result := .next (s.rotOperand .sll r)

/-- SRL r, (HL) included (R347). -/
def execSrlR (r : Operand8) (s : State) : Result := .next (s.rotOperand .srl r)

/-- BIT b, r (R350). -/
def execBitBR (b : Fin 8) (r : Reg8) (s : State) : Result := .next (s.testBit b (s.reg r) (some (bits53 (s.reg r))))

/-- BIT b, (HL) (R351). -/
def execBitBHLind (b : Fin 8) (s : State) : Result := .next (s.testBit b (s.readByte s.main.hl) none)

/-- RES b, r (R352). -/
def execResBR (b : Fin 8) (r : Reg8) (s : State) : Result := .next (s.setReg r (resBit b (s.reg r)))

/-- RES b, (HL) (R353). -/
def execResBHLind (b : Fin 8) (s : State) : Result := .next (s.writeByte s.main.hl (resBit b (s.readByte s.main.hl)))

/-- SET b, r (R354). -/
def execSetBR (b : Fin 8) (r : Reg8) (s : State) : Result := .next (s.setReg r (setBit b (s.reg r)))

/-- SET b, (HL) (R355). -/
def execSetBHLind (b : Fin 8) (s : State) : Result := .next (s.writeByte s.main.hl (setBit b (s.readByte s.main.hl)))

end Sys2Proof.Machine
end

