-- ==== Sys2Proof/Machine/EdPage.lean ====
section
/-!
DEFINITION. The ED page, opcodes 40 to 7F (spec/45_ed_extended.md R370 to R387).
-/
namespace Sys2Proof.Machine

/-- IN r, (C) (R370). -/
def execInRC (r : Reg8) (s : State) : Result :=
  .next (((s.afterPortRead s.main.bc).setReg r s.portAnswer).setF (inFlags s.main.f s.portAnswer))

/-- IN F, (C) (R371). -/
def execInFC (s : State) : Result := .next ((s.afterPortRead s.main.bc).setF (inFlags s.main.f s.portAnswer))

/-- OUT (C), r (R372). -/
def execOutCR (r : Reg8) (s : State) : Result := .next (s.portWrite s.main.bc (s.reg r))

/-- OUT (C), 0 (R373). -/
def execOutC0 (s : State) : Result := .next (s.portWrite s.main.bc s.cfg.outC0)

/-- SBC HL, rp (R374). -/
def execSbcHLRp (p : Rp) (s : State) : Result := .next (s.setHlOpenF (sbc16 s.main.hl (s.rp p) s.main.f))

/-- ADC HL, rp (R375). -/
def execAdcHLRp (p : Rp) (s : State) : Result := .next (s.setHlOpenF (adc16 s.main.hl (s.rp p) s.main.f))

/-- LD (nn), rp (R376). -/
def execLdNnindRp (nn : Word) (p : Rp) (s : State) : Result := .next (s.writeWord nn (s.rp p))

/-- LD rp, (nn) (R377). -/
def execLdRpNnind (p : Rp) (nn : Word) (s : State) : Result := .next (s.setRp p (s.readWord nn))

/-- NEG (R378). -/
def execNeg (s : State) : Result := .next (s.setAF (sub8 0x00 s.main.a false))

/-- RETN (R379). -/
def execRetn (s : State) : Result := .next (s.returnFromHandler true)

/-- RETI (R380). -/
def execReti (s : State) : Result := .next (s.returnFromHandler s.cfg.retiCopiesIff2)

/-- IM 0 (R381). -/
def execIm0 (s : State) : Result := .next (s.setIm .im0)

/-- IM 1 (R381). -/
def execIm1 (s : State) : Result := .next (s.setIm .im1)

/-- IM 2 (R381). -/
def execIm2 (s : State) : Result := .next (s.setIm .im2)

/-- LD I, A (R382). -/
def execLdIA (s : State) : Result := .next (s.setI s.main.a)

/-- LD R, A (R383). -/
def execLdRA (s : State) : Result := .next (s.setR s.main.a)

/-- LD A, I (R384). -/
def execLdAI (s : State) : Result := .next (s.setAF (s.i, loadIRFlags s.main.f s.i s.iff2))

/-- LD A, R (R385). -/
def execLdAR (s : State) : Result :=
  match s.cfg.rTracking with
  | .exact => .next (s.setAF (s.r, loadIRFlags s.main.f s.r s.iff2))
  | .draw =>
    let v : Byte := s.r.extractLsb' 7 1 ++ s.draw.extractLsb' 0 7
    .next (s.drawn.setAF (v, loadIRFlags s.main.f v s.iff2))

/-- RRD (R386). -/
def execRrd (s : State) : Result :=
  let m := s.readByte s.main.hl
  .next (s.setDecimal (nibbles (lowNibble s.main.a) (highNibble m)) (nibbles (highNibble s.main.a) (lowNibble m)))

/-- RLD (R387). -/
def execRld (s : State) : Result :=
  let m := s.readByte s.main.hl
  .next (s.setDecimal (nibbles (lowNibble m) (lowNibble s.main.a)) (nibbles (highNibble s.main.a) (highNibble m)))

end Sys2Proof.Machine
end

