-- ==== Sys2Proof/Machine/IndexCb.lean ====
section
/-!
DEFINITION. The DD CB and FD CB pages (spec/48_ddcb_fdcb.md R501 to R505).
-/
namespace Sys2Proof.Machine

/-- RLC to SRL (IX+d), r (R505). -/
def execRotIXdR (o : Rot) (d : Byte) (r : Reg8) (s : State) : Result := .next (s.rotXydReg .ix o d r)

/-- RLC to SRL (IX+d) (R501). -/
def execRotIXd (o : Rot) (d : Byte) (s : State) : Result := .next (s.rotXyd .ix o d)

/-- BIT b, (IX+d), every z (R502). -/
def execBitIXd (b : Fin 8) (d : Byte) (s : State) : Result :=
  .next (s.testBit b (s.readXyd .ix d) (some (bits1311 (s.ea .ix d))))

/-- RES b, (IX+d), r (R505). -/
def execResIXdR (b : Fin 8) (d : Byte) (r : Reg8) (s : State) : Result :=
  .next (s.writeXydReg .ix d r (resBit b (s.readXyd .ix d)))

/-- RES b, (IX+d) (R503). -/
def execResIXd (b : Fin 8) (d : Byte) (s : State) : Result :=
  .next (s.writeByte (s.ea .ix d) (resBit b (s.readXyd .ix d)))

/-- SET b, (IX+d), r (R505). -/
def execSetIXdR (b : Fin 8) (d : Byte) (r : Reg8) (s : State) : Result :=
  .next (s.writeXydReg .ix d r (setBit b (s.readXyd .ix d)))

/-- SET b, (IX+d) (R504). -/
def execSetIXd (b : Fin 8) (d : Byte) (s : State) : Result :=
  .next (s.writeByte (s.ea .ix d) (setBit b (s.readXyd .ix d)))

/-- RLC to SRL (IY+d), r (R505). -/
def execRotIYdR (o : Rot) (d : Byte) (r : Reg8) (s : State) : Result := .next (s.rotXydReg .iy o d r)

/-- RLC to SRL (IY+d) (R501). -/
def execRotIYd (o : Rot) (d : Byte) (s : State) : Result := .next (s.rotXyd .iy o d)

/-- BIT b, (IY+d), every z (R502). -/
def execBitIYd (b : Fin 8) (d : Byte) (s : State) : Result :=
  .next (s.testBit b (s.readXyd .iy d) (some (bits1311 (s.ea .iy d))))

/-- RES b, (IY+d), r (R505). -/
def execResIYdR (b : Fin 8) (d : Byte) (r : Reg8) (s : State) : Result :=
  .next (s.writeXydReg .iy d r (resBit b (s.readXyd .iy d)))

/-- RES b, (IY+d) (R503). -/
def execResIYd (b : Fin 8) (d : Byte) (s : State) : Result :=
  .next (s.writeByte (s.ea .iy d) (resBit b (s.readXyd .iy d)))

/-- SET b, (IY+d), r (R505). -/
def execSetIYdR (b : Fin 8) (d : Byte) (r : Reg8) (s : State) : Result :=
  .next (s.writeXydReg .iy d r (setBit b (s.readXyd .iy d)))

/-- SET b, (IY+d) (R504). -/
def execSetIYd (b : Fin 8) (d : Byte) (s : State) : Result :=
  .next (s.writeByte (s.ea .iy d) (setBit b (s.readXyd .iy d)))

end Sys2Proof.Machine
end

