-- ==== Sys2Proof/Machine/IndexPage.lean ====
section
/-!
DEFINITION. The DD and FD pages (spec/47_dd_fd_index.md R451 to R475, R481).
-/
namespace Sys2Proof.Machine

/-- ADD IX, rr (R456). -/
def execAddIXRr (p : RpIndex) (s : State) : Result :=
  .next (s.setXyOpenF .ix (add16 (s.xy .ix) (s.rpIndex .ix p) s.main.f))

/-- LD IX, nn (R451). -/
def execLdIXNn (nn : Word) (s : State) : Result := .next (s.setXy .ix nn)

/-- LD (nn), IX (R452). -/
def execLdNnindIX (nn : Word) (s : State) : Result := .next (s.writeWord nn (s.xy .ix))

/-- INC IX (R454). -/
def execIncIX (s : State) : Result := .next (s.setXy .ix (s.xy .ix + 1))

/-- LD IX, (nn) (R453). -/
def execLdIXNnind (nn : Word) (s : State) : Result := .next (s.setXy .ix (s.readWord nn))

/-- DEC IX (R455). -/
def execDecIX (s : State) : Result := .next (s.setXy .ix (s.xy .ix - 1))

/-- INC (IX+d) (R463). -/
def execIncIXd (d : Byte) (s : State) : Result := .next (s.incAt (s.ea .ix d))

/-- DEC (IX+d) (R464). -/
def execDecIXd (d : Byte) (s : State) : Result := .next (s.decAt (s.ea .ix d))

/-- LD (IX+d), n (R465). -/
def execLdIXdN (d : Byte) (n : Byte) (s : State) : Result := .next (s.writeByte (s.ea .ix d) n)

/-- LD r, (IX+d) (R466). -/
def execLdRIXd (r : Reg8) (d : Byte) (s : State) : Result := .next (s.setReg r (s.readXyd .ix d))

/-- LD (IX+d), r (R467). -/
def execLdIXdR (d : Byte) (r : Reg8) (s : State) : Result := .next (s.writeByte (s.ea .ix d) (s.reg r))

/-- ADD A, (IX+d) (R468). -/
def execAddAIXd (d : Byte) (s : State) : Result := .next (s.aluAdd (s.readXyd .ix d))

/-- ADC A, (IX+d) (R469). -/
def execAdcAIXd (d : Byte) (s : State) : Result := .next (s.aluAdc (s.readXyd .ix d))

/-- SUB (IX+d) (R470). -/
def execSubIXd (d : Byte) (s : State) : Result := .next (s.aluSub (s.readXyd .ix d))

/-- SBC A, (IX+d) (R471). -/
def execSbcAIXd (d : Byte) (s : State) : Result := .next (s.aluSbc (s.readXyd .ix d))

/-- AND (IX+d) (R472). -/
def execAndIXd (d : Byte) (s : State) : Result := .next (s.aluAnd (s.readXyd .ix d))

/-- XOR (IX+d) (R473). -/
def execXorIXd (d : Byte) (s : State) : Result := .next (s.aluXor (s.readXyd .ix d))

/-- OR (IX+d) (R474). -/
def execOrIXd (d : Byte) (s : State) : Result := .next (s.aluOr (s.readXyd .ix d))

/-- CP (IX+d) (R475). -/
def execCpIXd (d : Byte) (s : State) : Result := .next (s.aluCp (s.readXyd .ix d))

/-- POP IX (R457). -/
def execPopIX (s : State) : Result := .next (s.popStack.setXy .ix s.popValue)

/-- EX (SP), IX (R459). -/
def execExSPindIX (s : State) : Result := .next ((s.exchangeTop (s.xy .ix)).setXy .ix (s.readWord s.sp))

/-- PUSH IX (R458). -/
def execPushIX (s : State) : Result := .next (s.push (s.xy .ix))

/-- JP (IX) (R460). -/
def execJpIX (s : State) : Result := .next (s.setPc (s.xy .ix))

/-- LD SP, IX (R461). -/
def execLdSPIX (s : State) : Result := .next (s.setSp (s.xy .ix))

/-- ADD IY, rr (R456). -/
def execAddIYRr (p : RpIndex) (s : State) : Result :=
  .next (s.setXyOpenF .iy (add16 (s.xy .iy) (s.rpIndex .iy p) s.main.f))

/-- LD IY, nn (R451). -/
def execLdIYNn (nn : Word) (s : State) : Result := .next (s.setXy .iy nn)

/-- LD (nn), IY (R452). -/
def execLdNnindIY (nn : Word) (s : State) : Result := .next (s.writeWord nn (s.xy .iy))

/-- INC IY (R454). -/
def execIncIY (s : State) : Result := .next (s.setXy .iy (s.xy .iy + 1))

/-- LD IY, (nn) (R453). -/
def execLdIYNnind (nn : Word) (s : State) : Result := .next (s.setXy .iy (s.readWord nn))

/-- DEC IY (R455). -/
def execDecIY (s : State) : Result := .next (s.setXy .iy (s.xy .iy - 1))

/-- INC (IY+d) (R463). -/
def execIncIYd (d : Byte) (s : State) : Result := .next (s.incAt (s.ea .iy d))

/-- DEC (IY+d) (R464). -/
def execDecIYd (d : Byte) (s : State) : Result := .next (s.decAt (s.ea .iy d))

/-- LD (IY+d), n (R465). -/
def execLdIYdN (d : Byte) (n : Byte) (s : State) : Result := .next (s.writeByte (s.ea .iy d) n)

/-- LD r, (IY+d) (R466). -/
def execLdRIYd (r : Reg8) (d : Byte) (s : State) : Result := .next (s.setReg r (s.readXyd .iy d))

/-- LD (IY+d), r (R467). -/
def execLdIYdR (d : Byte) (r : Reg8) (s : State) : Result := .next (s.writeByte (s.ea .iy d) (s.reg r))

/-- ADD A, (IY+d) (R468). -/
def execAddAIYd (d : Byte) (s : State) : Result := .next (s.aluAdd (s.readXyd .iy d))

/-- ADC A, (IY+d) (R469). -/
def execAdcAIYd (d : Byte) (s : State) : Result := .next (s.aluAdc (s.readXyd .iy d))

/-- SUB (IY+d) (R470). -/
def execSubIYd (d : Byte) (s : State) : Result := .next (s.aluSub (s.readXyd .iy d))

/-- SBC A, (IY+d) (R471). -/
def execSbcAIYd (d : Byte) (s : State) : Result := .next (s.aluSbc (s.readXyd .iy d))

/-- AND (IY+d) (R472). -/
def execAndIYd (d : Byte) (s : State) : Result := .next (s.aluAnd (s.readXyd .iy d))

/-- XOR (IY+d) (R473). -/
def execXorIYd (d : Byte) (s : State) : Result := .next (s.aluXor (s.readXyd .iy d))

/-- OR (IY+d) (R474). -/
def execOrIYd (d : Byte) (s : State) : Result := .next (s.aluOr (s.readXyd .iy d))

/-- CP (IY+d) (R475). -/
def execCpIYd (d : Byte) (s : State) : Result := .next (s.aluCp (s.readXyd .iy d))

/-- POP IY (R457). -/
def execPopIY (s : State) : Result := .next (s.popStack.setXy .iy s.popValue)

/-- EX (SP), IY (R459). -/
def execExSPindIY (s : State) : Result := .next ((s.exchangeTop (s.xy .iy)).setXy .iy (s.readWord s.sp))

/-- PUSH IY (R458). -/
def execPushIY (s : State) : Result := .next (s.push (s.xy .iy))

/-- JP (IY) (R460). -/
def execJpIY (s : State) : Result := .next (s.setPc (s.xy .iy))

/-- LD SP, IY (R461). -/
def execLdSPIY (s : State) : Result := .next (s.setSp (s.xy .iy))

end Sys2Proof.Machine
end

