-- ==== Sys2Proof/Machine/MainX0.lean ====
section
/-!
DEFINITION. The MAIN page, x = 0 (spec/40_main_x0.md R200 to R230).
-/
namespace Sys2Proof.Machine

/-- NOP (R200). -/
def execNop (s : State) : Result := .next s

/-- EX AF, AF' (R201). -/
def execExAFAF (s : State) : Result :=
  .next ((s.setMain ((s.main.setA s.alt.a).setF s.alt.f)).setAlt ((s.alt.setA s.main.a).setF s.main.f))

/-- DJNZ d (R202). -/
def execDjnz (d : Byte) (s : State) : Result :=
  let b := s.main.b - 1
  .next (if b ≠ 0 then (s.setB b).jumpRelative d else s.setB b)

/-- JR d (R203). -/
def execJr (d : Byte) (s : State) : Result := .next (s.jumpRelative d)

/-- JR cc, d (R204). -/
def execJrCc (cc : JrCond) (d : Byte) (s : State) : Result := .next (if s.main.f.jrCond cc then s.jumpRelative d else s)

/-- LD rp, nn (R205). -/
def execLdRpNn (p : Rp) (nn : Word) (s : State) : Result := .next (s.setRp p nn)

/-- ADD HL, rp (R206). -/
def execAddHLRp (p : Rp) (s : State) : Result := .next (s.setHlOpenF (add16 s.main.hl (s.rp p) s.main.f))

/-- LD (BC), A (R207). -/
def execLdBCindA (s : State) : Result := .next (s.writeByte s.main.bc s.main.a)

/-- LD (DE), A (R208). -/
def execLdDEindA (s : State) : Result := .next (s.writeByte s.main.de s.main.a)

/-- LD (nn), HL (R209). -/
def execLdNnindHL (nn : Word) (s : State) : Result := .next (s.writeWord nn s.main.hl)

/-- LD (nn), A (R210). -/
def execLdNnindA (nn : Word) (s : State) : Result := .next (s.writeByte nn s.main.a)

/-- LD A, (BC) (R211). -/
def execLdABCind (s : State) : Result := .next (s.setA (s.readByte s.main.bc))

/-- LD A, (DE) (R212). -/
def execLdADEind (s : State) : Result := .next (s.setA (s.readByte s.main.de))

/-- LD HL, (nn) (R213). -/
def execLdHLNnind (nn : Word) (s : State) : Result := .next (s.setHl (s.readWord nn))

/-- LD A, (nn) (R214). -/
def execLdANnind (nn : Word) (s : State) : Result := .next (s.setA (s.readByte nn))

/-- INC rp (R215). -/
def execIncRp (p : Rp) (s : State) : Result := .next (s.setRp p (s.rp p + 1))

/-- DEC rp (R216). -/
def execDecRp (p : Rp) (s : State) : Result := .next (s.setRp p (s.rp p - 1))

/-- INC r (R217). -/
def execIncR (r : Reg8) (s : State) : Result := .next (s.incReg r)

/-- INC (HL) (R218). -/
def execIncHLind (s : State) : Result := .next (s.incAt s.main.hl)

/-- DEC r (R219). -/
def execDecR (r : Reg8) (s : State) : Result := .next (s.decReg r)

/-- DEC (HL) (R220). -/
def execDecHLind (s : State) : Result := .next (s.decAt s.main.hl)

/-- LD r, n (R221). -/
def execLdRN (r : Reg8) (n : Byte) (s : State) : Result := .next (s.setReg r n)

/-- LD (HL), n (R222). -/
def execLdHLindN (n : Byte) (s : State) : Result := .next (s.writeByte s.main.hl n)

/-- RLCA (R223). -/
def execRlca (s : State) : Result := .next (s.rotA .rlc)

/-- RRCA (R224). -/
def execRrca (s : State) : Result := .next (s.rotA .rrc)

/-- RLA (R225). -/
def execRla (s : State) : Result := .next (s.rotA .rl)

/-- RRA (R226). -/
def execRra (s : State) : Result := .next (s.rotA .rr)

/-- DAA (R227). -/
def execDaa (s : State) : Result := .next (s.setAF (daa8 s.main.a s.main.f))

/-- CPL (R228). -/
def execCpl (s : State) : Result := .next (s.setAF (~~~s.main.a, cplFlags s.main.f (~~~s.main.a)))

/-- SCF (R229). -/
def execScf (s : State) : Result := .next (s.setOpenF (scfFlags s.main.f) none)

/-- CCF (R230). -/
def execCcf (s : State) : Result := .next (s.setOpenF (ccfFlags s.main.f) none)

end Sys2Proof.Machine
end

