-- ==== Sys2Proof/Machine/MainX1.lean ====
section
/-!
DEFINITION. The MAIN page, x = 1 (spec/41_main_x1_ld_halt.md R260 to R263), and the halted step (R264).
-/
namespace Sys2Proof.Machine

/-- LD r, r' (R260). -/
def execLdRR (dst : Reg8) (src : Reg8) (s : State) : Result := .next (s.setReg dst (s.reg src))

/-- LD r, (HL) (R261). -/
def execLdRHLind (r : Reg8) (s : State) : Result := .next (s.setReg r (s.readByte s.main.hl))

/-- LD (HL), r (R262). -/
def execLdHLindR (r : Reg8) (s : State) : Result := .next (s.writeByte s.main.hl (s.reg r))

/-- HALT (R263). -/
def execHalt (s : State) : Result := .next (s.setHalted true)

/-- The halted step (R264): R advances, and nothing else changes. -/
def State.haltedStep (s : State) : State := s.countFetch

end Sys2Proof.Machine
end

