-- ==== Sys2Proof/Machine/MainX2.lean ====
section
/-!
DEFINITION. The MAIN page, x = 2 (spec/42_main_x2_alu.md R270 to R277).
-/
namespace Sys2Proof.Machine

/-- ADD A, r, (HL) included (R270). -/
def execAddAR (r : Operand8) (s : State) : Result := .next (s.aluAdd (s.operand r))

/-- ADC A, r, (HL) included (R271). -/
def execAdcAR (r : Operand8) (s : State) : Result := .next (s.aluAdc (s.operand r))

/-- SUB r, (HL) included (R272). -/
def execSubR (r : Operand8) (s : State) : Result := .next (s.aluSub (s.operand r))

/-- SBC A, r, (HL) included (R273). -/
def execSbcAR (r : Operand8) (s : State) : Result := .next (s.aluSbc (s.operand r))

/-- AND r, (HL) included (R274). -/
def execAndR (r : Operand8) (s : State) : Result := .next (s.aluAnd (s.operand r))

/-- XOR r, (HL) included (R275). -/
def execXorR (r : Operand8) (s : State) : Result := .next (s.aluXor (s.operand r))

/-- OR r, (HL) included (R276). -/
def execOrR (r : Operand8) (s : State) : Result := .next (s.aluOr (s.operand r))

/-- CP r, (HL) included (R277). -/
def execCpR (r : Operand8) (s : State) : Result := .next (s.aluCp (s.operand r))

end Sys2Proof.Machine
end

