-- ==== Sys2Proof/Machine/MainX3.lean ====
section
/-!
DEFINITION. The MAIN page, x = 3 (spec/43_main_x3.md R290 to R317).
-/
namespace Sys2Proof.Machine

/-- The set `b` with B, C, D, E, H, L of `o` (R294). -/
def Bank.takeWide (b o : Bank) : Bank :=
  { b with b := o.b, c := o.c, d := o.d, e := o.e, h := o.h, l := o.l }

/-- RET cc (R290). -/
def execRetCc (cc : Cond) (s : State) : Result := .next (if s.main.f.cond cc then s.popPc else s)

/-- POP rp2 for BC, DE, HL (R291). -/
def execPopRp2 (p : RpPush) (s : State) : Result := .next (s.popStack.setRpPush p s.popValue)

/-- POP AF (R292). -/
def execPopAF (s : State) : Result := .next (s.popStack.setAF (hi s.popValue, Flags.ofByte (lo s.popValue)))

/-- RET (R293). -/
def execRet (s : State) : Result := .next (s.popPc)

/-- EXX (R294). -/
def execExx (s : State) : Result := .next ((s.setMain (s.main.takeWide s.alt)).setAlt (s.alt.takeWide s.main))

/-- JP (HL) (R295). -/
def execJpHL (s : State) : Result := .next (s.setPc s.main.hl)

/-- LD SP, HL (R296). -/
def execLdSPHL (s : State) : Result := .next (s.setSp s.main.hl)

/-- JP cc, nn (R297). -/
def execJpCcNn (cc : Cond) (nn : Word) (s : State) : Result := .next (if s.main.f.cond cc then s.setPc nn else s)

/-- JP nn (R298). -/
def execJpNn (nn : Word) (s : State) : Result := .next (s.setPc nn)

/-- OUT (n), A (R299). -/
def execOutNA (n : Byte) (s : State) : Result := .next (s.portWrite (pair s.main.a n) s.main.a)

/-- IN A, (n) (R300). -/
def execInAN (n : Byte) (s : State) : Result := .next ((s.afterPortRead (pair s.main.a n)).setA s.portAnswer)

/-- EX (SP), HL (R301). -/
def execExSPindHL (s : State) : Result := .next ((s.exchangeTop s.main.hl).setHl (s.readWord s.sp))

/-- EX DE, HL (R302). -/
def execExDEHL (s : State) : Result := .next ((s.setDe s.main.hl).setHl s.main.de)

/-- DI (R303). -/
def execDi (s : State) : Result := .next ((s.setIff1 false).setIff2 false)

/-- EI (R304). -/
def execEi (s : State) : Result := .next (((s.setIff1 true).setIff2 true).setEiPending true)

/-- CALL cc, nn (R305). -/
def execCallCcNn (cc : Cond) (nn : Word) (s : State) : Result := .next (if s.main.f.cond cc then s.call nn else s)

/-- PUSH rp2 for BC, DE, HL (R306). -/
def execPushRp2 (p : RpPush) (s : State) : Result := .next (s.push (s.rpPush p))

/-- PUSH AF (R307). -/
def execPushAF (s : State) : Result := .next (s.push (pair s.main.a s.main.f.toByte))

/-- CALL nn (R308). -/
def execCallNn (nn : Word) (s : State) : Result := .next (s.call nn)

/-- ADD A, n (R309). -/
def execAddAN (n : Byte) (s : State) : Result := .next (s.aluAdd n)

/-- ADC A, n (R310). -/
def execAdcAN (n : Byte) (s : State) : Result := .next (s.aluAdc n)

/-- SUB n (R311). -/
def execSubN (n : Byte) (s : State) : Result := .next (s.aluSub n)

/-- SBC A, n (R312). -/
def execSbcAN (n : Byte) (s : State) : Result := .next (s.aluSbc n)

/-- AND n (R313). -/
def execAndN (n : Byte) (s : State) : Result := .next (s.aluAnd n)

/-- XOR n (R314). -/
def execXorN (n : Byte) (s : State) : Result := .next (s.aluXor n)

/-- OR n (R315). -/
def execOrN (n : Byte) (s : State) : Result := .next (s.aluOr n)

/-- CP n (R316). -/
def execCpN (n : Byte) (s : State) : Result := .next (s.aluCp n)

/-- RST 8*y (R317). -/
def execRst (y : Fin 8) (s : State) : Result := .next (s.call (BitVec.ofNat 16 (8 * y.val)))

end Sys2Proof.Machine
end

