-- ==== Sys2Proof/Machine/Prefixes.lean ====
section
/-!
DEFINITION. The bytes CB, DD, ED and FD where they select a page (spec/43_main_x3.md R318, spec/30_encoding.md R121): none has an
effect of its own. The fetch counts them in R (spec/10_state.md R31) and goes on with the byte after (Machine/Run.lean).
-/
namespace Sys2Proof.Machine

/-- The byte CB, which selects the CB page (R318, R120). -/
def execCbPrefix (s : State) : Result := .next s

/-- The byte DD, which selects the DD page (R318, R120). -/
def execDdPrefix (s : State) : Result := .next s

/-- The byte ED, which selects the ED page (R318, R120). -/
def execEdPrefix (s : State) : Result := .next s

/-- The byte FD, which selects the FD page (R318, R120). -/
def execFdPrefix (s : State) : Result := .next s

/-- The byte DD after DD, which overrides it (R121). -/
def execDdPrefixAfterDd (s : State) : Result := .next s

/-- The byte ED after DD, which makes it ignored (R121). -/
def execEdPrefixAfterDd (s : State) : Result := .next s

/-- The byte FD after DD, which overrides it (R121). -/
def execFdPrefixAfterDd (s : State) : Result := .next s

/-- The byte DD after FD, which overrides it (R121). -/
def execDdPrefixAfterFd (s : State) : Result := .next s

/-- The byte ED after FD, which makes it ignored (R121). -/
def execEdPrefixAfterFd (s : State) : Result := .next s

/-- The byte FD after FD, which overrides it (R121). -/
def execFdPrefixAfterFd (s : State) : Result := .next s

end Sys2Proof.Machine
end

