-- ==== Sys2Proof/Machine/Unlisted.lean ====
section
/-!
DEFINITION. The encodings the source does not list (spec/30_encoding.md R141, R142; spec/47_dd_fd_index.md R480): refused
by name by default, and as on silicon where the parameter says so (logs 12 and 13).
-/
namespace Sys2Proof.Machine

/-- An unlisted ED opcode on silicon (R141): NEG, RETN, IM 0, IM 1, IM 2, or a no-operation. -/
def edSilicon (op : Byte) (s : State) : Result :=
  if fieldX op ≠ 1 then .next s
  else
    match fieldZ op with
    | 4 => execNeg s
    | 5 => execRetn s
    | 6 => if fieldY op ≤ 5 then execIm0 s else if fieldY op = 6 then execIm1 s else execIm2 s
    | _ => .next s

/-- The meaning of a MAIN-page instruction that has no form of its own on the DD and FD pages. The others, which no
unlisted opcode is, are refused. -/
def execMain (op : Byte) (i : Instr) (s : State) : Result :=
  match i with
  | .nop => execNop s
  | .ldRpNn p nn => execLdRpNn p nn s
  | .ldBCindA => execLdBCindA s
  | .incRp p => execIncRp p s
  | .incR r => execIncR r s
  | .decR r => execDecR r s
  | .ldRN r n => execLdRN r n s
  | .rlca => execRlca s
  | .exAFAF => execExAFAF s
  | .ldABCind => execLdABCind s
  | .decRp p => execDecRp p s
  | .rrca => execRrca s
  | .djnz d => execDjnz d s
  | .ldDEindA => execLdDEindA s
  | .rla => execRla s
  | .jr d => execJr d s
  | .ldADEind => execLdADEind s
  | .rra => execRra s
  | .jrCc cc d => execJrCc cc d s
  | .daa => execDaa s
  | .cpl => execCpl s
  | .ldNnindA nn => execLdNnindA nn s
  | .scf => execScf s
  | .ldANnind nn => execLdANnind nn s
  | .ccf => execCcf s
  | .ldRR dst src => execLdRR dst src s
  | .halt => execHalt s
  | .addAR r => execAddAR r s
  | .adcAR r => execAdcAR r s
  | .subR r => execSubR r s
  | .sbcAR r => execSbcAR r s
  | .andR r => execAndR r s
  | .xorR r => execXorR r s
  | .orR r => execOrR r s
  | .cpR r => execCpR r s
  | .retCc cc => execRetCc cc s
  | .popRp2 p => execPopRp2 p s
  | .jpCcNn cc nn => execJpCcNn cc nn s
  | .jpNn nn => execJpNn nn s
  | .callCcNn cc nn => execCallCcNn cc nn s
  | .pushRp2 p => execPushRp2 p s
  | .addAN n => execAddAN n s
  | .rst y => execRst y s
  | .ret => execRet s
  | .callNn nn => execCallNn nn s
  | .adcAN n => execAdcAN n s
  | .outNA n => execOutNA n s
  | .subN n => execSubN n s
  | .exx => execExx s
  | .inAN n => execInAN n s
  | .sbcAN n => execSbcAN n s
  | .andN n => execAndN n s
  | .exDEHL => execExDEHL s
  | .xorN n => execXorN n s
  | .popAF => execPopAF s
  | .di => execDi s
  | .pushAF => execPushAF s
  | .orN n => execOrN n s
  | .ei => execEi s
  | .cpN n => execCpN n s
  | _ => .refused (.idxUnlisted op)

/-- The instruction names H or L as an 8-bit register (R480 (b)). -/
def namesHL (i : Instr) : Bool :=
  match i with
  | .incR r => r == .h || r == .l
  | .decR r => r == .h || r == .l
  | .ldRN r _ => r == .h || r == .l
  | .ldRR dst src => dst == .h || dst == .l || src == .h || src == .l
  | .addAR r => r == .reg .h || r == .reg .l
  | .adcAR r => r == .reg .h || r == .reg .l
  | .subR r => r == .reg .h || r == .reg .l
  | .sbcAR r => r == .reg .h || r == .reg .l
  | .andR r => r == .reg .h || r == .reg .l
  | .xorR r => r == .reg .h || r == .reg .l
  | .orR r => r == .reg .h || r == .reg .l
  | .cpR r => r == .reg .h || r == .reg .l
  | _ => false

/-- HL and XY exchanged. -/
def State.swapHlXy (s : State) (x : IndexReg) : State := (s.setHl (s.xy x)).setXy x s.main.hl

/-- The swap of a next state undone. -/
def swapBack (x : IndexReg) (r : Result) : Result :=
  match r with
  | .next s => .next (s.swapHlXy x)
  | .fault e => .fault e
  | .refused e => .refused e

/-- An unlisted DD or FD opcode on silicon (R480): (a) as on the MAIN page, (b) with the halves of XY for H and L. An
instruction of (b) has no other use of HL than as H and L, so it is the MAIN-page one with XY standing in HL. -/
def idxSilicon (x : IndexReg) (op n1 n2 : Byte) (s : State) : Result :=
  let i := (decodeMain op n1 n2).1
  if namesHL i then swapBack x (execMain op i (s.swapHlXy x)) else execMain op i s

/-- An ED opcode the source does not list (R141). -/
def execEdUnlisted (op : Byte) (s : State) : Result :=
  match s.cfg.edUnlisted with
  | .refuse => .refused (.edUnlisted op)
  | .silicon => edSilicon op s

/-- DD before an opcode outside the admitted set, with the bytes after it (R142, R480). -/
def execIxUnlisted (op : Byte) (n1 : Byte) (n2 : Byte) (s : State) : Result :=
  match s.cfg.idxUnlisted with
  | .refuse => .refused (.idxUnlisted op)
  | .silicon => idxSilicon .ix op n1 n2 s

/-- FD before an opcode outside the admitted set, with the bytes after it (R142, R480). -/
def execIyUnlisted (op : Byte) (n1 : Byte) (n2 : Byte) (s : State) : Result :=
  match s.cfg.idxUnlisted with
  | .refuse => .refused (.idxUnlisted op)
  | .silicon => idxSilicon .iy op n1 n2 s

end Sys2Proof.Machine
end

