-- ==== Sys2Proof/Machine/Dispatch.lean ====
section
/-!
DEFINITION. The meaning of every instruction: one arm for each constructor of Instr, each a call of that instruction's meaning.
-/
namespace Sys2Proof.Machine

def exec (i : Instr) (s : State) : Host.Outcome State Fault Refusal :=
  match i with
  | .nop => Sys2Proof.Machine.execNop s
  | .ldRpNn p nn => Sys2Proof.Machine.execLdRpNn p nn s
  | .ldBCindA => Sys2Proof.Machine.execLdBCindA s
  | .incRp p => Sys2Proof.Machine.execIncRp p s
  | .incR r => Sys2Proof.Machine.execIncR r s
  | .decR r => Sys2Proof.Machine.execDecR r s
  | .ldRN r n => Sys2Proof.Machine.execLdRN r n s
  | .rlca => Sys2Proof.Machine.execRlca s
  | .exAFAF => Sys2Proof.Machine.execExAFAF s
  | .addHLRp p => Sys2Proof.Machine.execAddHLRp p s
  | .ldABCind => Sys2Proof.Machine.execLdABCind s
  | .decRp p => Sys2Proof.Machine.execDecRp p s
  | .rrca => Sys2Proof.Machine.execRrca s
  | .djnz d => Sys2Proof.Machine.execDjnz d s
  | .ldDEindA => Sys2Proof.Machine.execLdDEindA s
  | .rla => Sys2Proof.Machine.execRla s
  | .jr d => Sys2Proof.Machine.execJr d s
  | .ldADEind => Sys2Proof.Machine.execLdADEind s
  | .rra => Sys2Proof.Machine.execRra s
  | .jrCc cc d => Sys2Proof.Machine.execJrCc cc d s
  | .ldNnindHL nn => Sys2Proof.Machine.execLdNnindHL nn s
  | .daa => Sys2Proof.Machine.execDaa s
  | .ldHLNnind nn => Sys2Proof.Machine.execLdHLNnind nn s
  | .cpl => Sys2Proof.Machine.execCpl s
  | .ldNnindA nn => Sys2Proof.Machine.execLdNnindA nn s
  | .incHLind => Sys2Proof.Machine.execIncHLind s
  | .decHLind => Sys2Proof.Machine.execDecHLind s
  | .ldHLindN n => Sys2Proof.Machine.execLdHLindN n s
  | .scf => Sys2Proof.Machine.execScf s
  | .ldANnind nn => Sys2Proof.Machine.execLdANnind nn s
  | .ccf => Sys2Proof.Machine.execCcf s
  | .ldRR dst src => Sys2Proof.Machine.execLdRR dst src s
  | .ldRHLind r => Sys2Proof.Machine.execLdRHLind r s
  | .ldHLindR r => Sys2Proof.Machine.execLdHLindR r s
  | .halt => Sys2Proof.Machine.execHalt s
  | .addAR r => Sys2Proof.Machine.execAddAR r s
  | .adcAR r => Sys2Proof.Machine.execAdcAR r s
  | .subR r => Sys2Proof.Machine.execSubR r s
  | .sbcAR r => Sys2Proof.Machine.execSbcAR r s
  | .andR r => Sys2Proof.Machine.execAndR r s
  | .xorR r => Sys2Proof.Machine.execXorR r s
  | .orR r => Sys2Proof.Machine.execOrR r s
  | .cpR r => Sys2Proof.Machine.execCpR r s
  | .retCc cc => Sys2Proof.Machine.execRetCc cc s
  | .popRp2 p => Sys2Proof.Machine.execPopRp2 p s
  | .jpCcNn cc nn => Sys2Proof.Machine.execJpCcNn cc nn s
  | .jpNn nn => Sys2Proof.Machine.execJpNn nn s
  | .callCcNn cc nn => Sys2Proof.Machine.execCallCcNn cc nn s
  | .pushRp2 p => Sys2Proof.Machine.execPushRp2 p s
  | .addAN n => Sys2Proof.Machine.execAddAN n s
  | .rst y => Sys2Proof.Machine.execRst y s
  | .ret => Sys2Proof.Machine.execRet s
  | .cbPrefix => Sys2Proof.Machine.execCbPrefix s
  | .callNn nn => Sys2Proof.Machine.execCallNn nn s
  | .adcAN n => Sys2Proof.Machine.execAdcAN n s
  | .outNA n => Sys2Proof.Machine.execOutNA n s
  | .subN n => Sys2Proof.Machine.execSubN n s
  | .exx => Sys2Proof.Machine.execExx s
  | .inAN n => Sys2Proof.Machine.execInAN n s
  | .ddPrefix => Sys2Proof.Machine.execDdPrefix s
  | .sbcAN n => Sys2Proof.Machine.execSbcAN n s
  | .exSPindHL => Sys2Proof.Machine.execExSPindHL s
  | .andN n => Sys2Proof.Machine.execAndN n s
  | .jpHL => Sys2Proof.Machine.execJpHL s
  | .exDEHL => Sys2Proof.Machine.execExDEHL s
  | .edPrefix => Sys2Proof.Machine.execEdPrefix s
  | .xorN n => Sys2Proof.Machine.execXorN n s
  | .popAF => Sys2Proof.Machine.execPopAF s
  | .di => Sys2Proof.Machine.execDi s
  | .pushAF => Sys2Proof.Machine.execPushAF s
  | .orN n => Sys2Proof.Machine.execOrN n s
  | .ldSPHL => Sys2Proof.Machine.execLdSPHL s
  | .ei => Sys2Proof.Machine.execEi s
  | .fdPrefix => Sys2Proof.Machine.execFdPrefix s
  | .cpN n => Sys2Proof.Machine.execCpN n s
  | .rlcR r => Sys2Proof.Machine.execRlcR r s
  | .rrcR r => Sys2Proof.Machine.execRrcR r s
  | .rlR r => Sys2Proof.Machine.execRlR r s
  | .rrR r => Sys2Proof.Machine.execRrR r s
  | .slaR r => Sys2Proof.Machine.execSlaR r s
  | .sraR r => Sys2Proof.Machine.execSraR r s
  | .sllR r => Sys2Proof.Machine.execSllR r s
  | .srlR r => Sys2Proof.Machine.execSrlR r s
  | .bitBR b r => Sys2Proof.Machine.execBitBR b r s
  | .bitBHLind b => Sys2Proof.Machine.execBitBHLind b s
  | .resBR b r => Sys2Proof.Machine.execResBR b r s
  | .resBHLind b => Sys2Proof.Machine.execResBHLind b s
  | .setBR b r => Sys2Proof.Machine.execSetBR b r s
  | .setBHLind b => Sys2Proof.Machine.execSetBHLind b s
  | .edUnlisted op => Sys2Proof.Machine.execEdUnlisted op s
  | .inRC r => Sys2Proof.Machine.execInRC r s
  | .outCR r => Sys2Proof.Machine.execOutCR r s
  | .sbcHLRp p => Sys2Proof.Machine.execSbcHLRp p s
  | .ldNnindRp nn p => Sys2Proof.Machine.execLdNnindRp nn p s
  | .neg => Sys2Proof.Machine.execNeg s
  | .retn => Sys2Proof.Machine.execRetn s
  | .im0 => Sys2Proof.Machine.execIm0 s
  | .ldIA => Sys2Proof.Machine.execLdIA s
  | .adcHLRp p => Sys2Proof.Machine.execAdcHLRp p s
  | .ldRpNnind p nn => Sys2Proof.Machine.execLdRpNnind p nn s
  | .reti => Sys2Proof.Machine.execReti s
  | .ldRA => Sys2Proof.Machine.execLdRA s
  | .im1 => Sys2Proof.Machine.execIm1 s
  | .ldAI => Sys2Proof.Machine.execLdAI s
  | .im2 => Sys2Proof.Machine.execIm2 s
  | .ldAR => Sys2Proof.Machine.execLdAR s
  | .rrd => Sys2Proof.Machine.execRrd s
  | .rld => Sys2Proof.Machine.execRld s
  | .inFC => Sys2Proof.Machine.execInFC s
  | .outC0 => Sys2Proof.Machine.execOutC0 s
  | .ldi => Sys2Proof.Machine.execLdi s
  | .cpi => Sys2Proof.Machine.execCpi s
  | .ini => Sys2Proof.Machine.execIni s
  | .outi => Sys2Proof.Machine.execOuti s
  | .ldd => Sys2Proof.Machine.execLdd s
  | .cpd => Sys2Proof.Machine.execCpd s
  | .ind => Sys2Proof.Machine.execInd s
  | .outd => Sys2Proof.Machine.execOutd s
  | .ldir => Sys2Proof.Machine.execLdir s
  | .cpir => Sys2Proof.Machine.execCpir s
  | .inir => Sys2Proof.Machine.execInir s
  | .otir => Sys2Proof.Machine.execOtir s
  | .lddr => Sys2Proof.Machine.execLddr s
  | .cpdr => Sys2Proof.Machine.execCpdr s
  | .indr => Sys2Proof.Machine.execIndr s
  | .otdr => Sys2Proof.Machine.execOtdr s
  | .ixUnlisted op n1 n2 => Sys2Proof.Machine.execIxUnlisted op n1 n2 s
  | .addIXRr p => Sys2Proof.Machine.execAddIXRr p s
  | .ldIXNn nn => Sys2Proof.Machine.execLdIXNn nn s
  | .ldNnindIX nn => Sys2Proof.Machine.execLdNnindIX nn s
  | .incIX => Sys2Proof.Machine.execIncIX s
  | .ldIXNnind nn => Sys2Proof.Machine.execLdIXNnind nn s
  | .decIX => Sys2Proof.Machine.execDecIX s
  | .incIXd d => Sys2Proof.Machine.execIncIXd d s
  | .decIXd d => Sys2Proof.Machine.execDecIXd d s
  | .ldIXdN d n => Sys2Proof.Machine.execLdIXdN d n s
  | .ldRIXd r d => Sys2Proof.Machine.execLdRIXd r d s
  | .ldIXdR d r => Sys2Proof.Machine.execLdIXdR d r s
  | .addAIXd d => Sys2Proof.Machine.execAddAIXd d s
  | .adcAIXd d => Sys2Proof.Machine.execAdcAIXd d s
  | .subIXd d => Sys2Proof.Machine.execSubIXd d s
  | .sbcAIXd d => Sys2Proof.Machine.execSbcAIXd d s
  | .andIXd d => Sys2Proof.Machine.execAndIXd d s
  | .xorIXd d => Sys2Proof.Machine.execXorIXd d s
  | .orIXd d => Sys2Proof.Machine.execOrIXd d s
  | .cpIXd d => Sys2Proof.Machine.execCpIXd d s
  | .ddPrefixAfterDd => Sys2Proof.Machine.execDdPrefixAfterDd s
  | .popIX => Sys2Proof.Machine.execPopIX s
  | .exSPindIX => Sys2Proof.Machine.execExSPindIX s
  | .pushIX => Sys2Proof.Machine.execPushIX s
  | .jpIX => Sys2Proof.Machine.execJpIX s
  | .edPrefixAfterDd => Sys2Proof.Machine.execEdPrefixAfterDd s
  | .ldSPIX => Sys2Proof.Machine.execLdSPIX s
  | .fdPrefixAfterDd => Sys2Proof.Machine.execFdPrefixAfterDd s
  | .rotIXdR o d r => Sys2Proof.Machine.execRotIXdR o d r s
  | .rotIXd o d => Sys2Proof.Machine.execRotIXd o d s
  | .bitIXd b d => Sys2Proof.Machine.execBitIXd b d s
  | .resIXdR b d r => Sys2Proof.Machine.execResIXdR b d r s
  | .resIXd b d => Sys2Proof.Machine.execResIXd b d s
  | .setIXdR b d r => Sys2Proof.Machine.execSetIXdR b d r s
  | .setIXd b d => Sys2Proof.Machine.execSetIXd b d s
  | .iyUnlisted op n1 n2 => Sys2Proof.Machine.execIyUnlisted op n1 n2 s
  | .addIYRr p => Sys2Proof.Machine.execAddIYRr p s
  | .ldIYNn nn => Sys2Proof.Machine.execLdIYNn nn s
  | .ldNnindIY nn => Sys2Proof.Machine.execLdNnindIY nn s
  | .incIY => Sys2Proof.Machine.execIncIY s
  | .ldIYNnind nn => Sys2Proof.Machine.execLdIYNnind nn s
  | .decIY => Sys2Proof.Machine.execDecIY s
  | .incIYd d => Sys2Proof.Machine.execIncIYd d s
  | .decIYd d => Sys2Proof.Machine.execDecIYd d s
  | .ldIYdN d n => Sys2Proof.Machine.execLdIYdN d n s
  | .ldRIYd r d => Sys2Proof.Machine.execLdRIYd r d s
  | .ldIYdR d r => Sys2Proof.Machine.execLdIYdR d r s
  | .addAIYd d => Sys2Proof.Machine.execAddAIYd d s
  | .adcAIYd d => Sys2Proof.Machine.execAdcAIYd d s
  | .subIYd d => Sys2Proof.Machine.execSubIYd d s
  | .sbcAIYd d => Sys2Proof.Machine.execSbcAIYd d s
  | .andIYd d => Sys2Proof.Machine.execAndIYd d s
  | .xorIYd d => Sys2Proof.Machine.execXorIYd d s
  | .orIYd d => Sys2Proof.Machine.execOrIYd d s
  | .cpIYd d => Sys2Proof.Machine.execCpIYd d s
  | .ddPrefixAfterFd => Sys2Proof.Machine.execDdPrefixAfterFd s
  | .popIY => Sys2Proof.Machine.execPopIY s
  | .exSPindIY => Sys2Proof.Machine.execExSPindIY s
  | .pushIY => Sys2Proof.Machine.execPushIY s
  | .jpIY => Sys2Proof.Machine.execJpIY s
  | .edPrefixAfterFd => Sys2Proof.Machine.execEdPrefixAfterFd s
  | .ldSPIY => Sys2Proof.Machine.execLdSPIY s
  | .fdPrefixAfterFd => Sys2Proof.Machine.execFdPrefixAfterFd s
  | .rotIYdR o d r => Sys2Proof.Machine.execRotIYdR o d r s
  | .rotIYd o d => Sys2Proof.Machine.execRotIYd o d s
  | .bitIYd b d => Sys2Proof.Machine.execBitIYd b d s
  | .resIYdR b d r => Sys2Proof.Machine.execResIYdR b d r s
  | .resIYd b d => Sys2Proof.Machine.execResIYd b d s
  | .setIYdR b d r => Sys2Proof.Machine.execSetIYdR b d r s
  | .setIYd b d => Sys2Proof.Machine.execSetIYd b d s

end Sys2Proof.Machine
end

