-- ==== Sys2Proof/Machine/Run.lean ====
section
/-!
DEFINITION. Fetching and running one whole instruction (spec/00_scope.md R10; spec/30_encoding.md R120, R121, R122), and
one step of the machine from boundary to boundary (R11; spec/60_exceptions.md R612, R617).
-/
namespace Sys2Proof.Machine

/-- What stands at pc, read on page `p`: an instruction or a prefix byte, and how many bytes of that page it takes. -/
def State.fetch (s : State) (p : Page) : Instr × Nat :=
  decodeOn p (s.readByte s.pc) (s.readByte (s.pc + 1)) (s.readByte (s.pc + 2))

/-- The frame of R10 for `len` bytes with one opcode fetch among them: pc moves past them, R counts one (R31), and
`ei_pending` ends (R36, R304; EI sets it again; log 15). -/
def State.advance (s : State) (len : Nat) : State :=
  ((s.setPc (s.pc + BitVec.ofNat 16 len)).countFetch).setEiPending false

/-- One instruction with all its prefix bytes (R122): a byte that selects a page is passed over and the byte after it is
read on that page. `fuel` bounds the prefix bytes; a run that outlasts it never ends. -/
def runInstr (fuel : Nat) (p : Page) (s : State) : Result :=
  match fuel with
  | 0 => .fault .prefixHang
  | fuel + 1 =>
    match (s.fetch p).1.selects with
    | none => exec (s.fetch p).1 (s.advance (s.fetch p).2)
    | some q =>
      match exec (s.fetch p).1 (s.advance (s.fetch p).2) with
      | .next t => runInstr fuel q t
      | .fault e => .fault e
      | .refused e => .refused e

/-- More than any run of prefix bytes that ends: one of 65536 DD and FD bytes fills the memory. -/
def prefixFuel : Nat := 65538

/-- The environment's inputs at this boundary; none is active where none is lined up (log 8). -/
def State.boundary (s : State) : BoundaryInput := s.inputs.headD BoundaryInput.quiet

/-- The inputs are taken, and `NMI` sets its latch (R37). -/
def State.sampled (s : State) : State :=
  (s.setInputs s.inputs.tail).setNmiPending (s.nmiPending || s.boundary.nmi)

/-- A maskable interrupt is accepted (R612). -/
def State.acceptsInt (s : State) (level : Bool) : Bool := level && s.iff1 && !s.eiPending

/-- One step (R11, in the priority of R617): reset, non-maskable interrupt, maskable interrupt, halted step, instruction. -/
def runStep (s : State) : Result :=
  if s.boundary.reset then .next s.sampled.resetAction
  else if s.sampled.nmiPending then .next s.sampled.nmiEntry
  else if s.sampled.acceptsInt s.boundary.int then s.sampled.intEntry s.boundary.busByte
  else if s.sampled.halted then .next s.sampled.haltedStep
  else runInstr prefixFuel .main s.sampled

/-- The bytes of `w`, `count` of them from byte `k`, stored from `addr` on: byte 0 of `w` is its least significant. -/
def State.storeBytes (s : State) (addr : Word) (w k count : Nat) : State :=
  match count with
  | 0 => s
  | count + 1 => (s.writeByte addr (tableByte w k)).storeBytes (addr + 1) w (k + 1) count

/-- The instruction whose bits are the low `nbits` of `w`, and zeros after it, stored at pc, with nothing at the boundary
that would keep the machine from running it (log 9). -/
def State.placeInstr (s : State) (nbits w : Nat) : State :=
  (((s.storeBytes s.pc (w % 2 ^ nbits) 0 8).setHalted false).setNmiPending false).setInputs
    (BoundaryInput.quiet :: s.inputs.tail)

end Sys2Proof.Machine
end

