-- ==== Sys2Proof/Safety.lean ====
section
/-!
DEFINITION. The terms in which claims speak of the machine: what a safe state is, when a boundary leads to an
instruction, and plain readings of bytes, ones, shifts and R that do not go through the meanings.
-/
namespace Sys2Proof.Machine

/-- What every run keeps: memory in its canonical form; IFF1 only with IFF2, which R303, R304, R379, R611 and R613 leave
so; `ei_pending` only with IFF1, since EI sets both and whatever clears IFF1 ends the delay (R36, R304). -/
structure Legal (s : State) : Prop where
  memory : s.mem.wf = true
  enables : s.iff1 = true → s.iff2 = true
  delay : s.eiPending = true → s.iff1 = true

/-- No reset and no interrupt is taken at this boundary, and the machine is not halted: the step runs an instruction
(R11, R611, R612). -/
structure State.Undisturbed (s : State) : Prop where
  noReset : s.boundary.reset = false
  noNmi : s.boundary.nmi = false
  noLatch : s.nmiPending = false
  noInt : s.boundary.int = true → s.iff1 = true → s.eiPending = true
  running : s.halted = false

/-- The `count` bytes from `addr` on, as fetch and loads read them: addresses wrap (R71, R82). -/
def State.bytesFrom (s : State) (addr : Word) (count : Nat) : List Byte :=
  match count with
  | 0 => []
  | count + 1 => s.readByte addr :: s.bytesFrom (addr + 1) count

/-- R after `k` opcode fetches: bits 6 to 0 count modulo 128, bit 7 stays (R31). -/
def RCounts (r r' : Byte) (k : Nat) : Prop :=
  r'.toNat / 128 = r.toNat / 128 ∧ r'.toNat % 128 = (r.toNat + k) % 128

/-- How many bits of a byte are 1. -/
def onesIn (v : Byte) : Nat := ((List.range 8).filter fun k => v.getLsbD k).length

/-- The result of a rotate or shift, as bit-vector operations (R340 to R347): `cin` is the carry, `bit0` is `SLL_BIT0`. -/
def rotated (o : Rot) (v : Byte) (cin bit0 : Bool) : Byte :=
  match o with
  | .rlc => v.rotateLeft 1
  | .rrc => v.rotateRight 1
  | .rl => (v <<< 1) ||| BitVec.ofNat 8 cin.toNat
  | .rr => (v >>> 1) ||| BitVec.ofNat 8 (128 * cin.toNat)
  | .sla => v <<< 1
  | .sra => v.sshiftRight 1
  | .sll => (v <<< 1) ||| BitVec.ofNat 8 bit0.toNat
  | .srl => v >>> 1

/-- The source's "Carry" column: bit 7 for what goes left, bit 0 for what goes right. -/
def carriedOut (o : Rot) (v : Byte) : Bool :=
  match o with
  | .rlc | .rl | .sla | .sll => decide (128 ≤ v.toNat)
  | .rrc | .rr | .sra | .srl => decide (v.toNat % 2 = 1)

/-- The packed-BCD byte of a number below 100. -/
def bcd (n : Nat) : Byte := BitVec.ofNat 8 (16 * (n / 10) + n % 10)

/-- The flags S, Z, Y, X say what a result is (R42). -/
def ShowsResult (f : Flags) (res : Byte) : Prop :=
  f.s = decide (res.toInt < 0) ∧ f.z = decide (res.toNat = 0) ∧ f.y = res.getLsbD 5 ∧ f.x = res.getLsbD 3

/-- Memory after a store of one byte. -/
def StoresByte (s t : State) (addr : Word) (v : Byte) : Prop :=
  ∀ a, t.readByte a = if a = addr then v else s.readByte a

/-- Memory after a store of two bytes, the low byte at `addr` (R76). -/
def StoresWord (s t : State) (addr v : Word) : Prop :=
  ∀ a, t.readByte a = if a = addr then lo v else if a = addr + 1 then hi v else s.readByte a

end Sys2Proof.Machine
end

