-- ==== Sys2Proof/Certificates/Slice0/Obligations.lean ====
section
/-!
DEFINITION. The statements for the provers. Throughout, pc already stands after the instruction when exec runs it: the
frame of R10, which ARunningStepExecutesTheDecodedInstruction states, has moved it and counted R. The claims that rest on a
choice of the model say so and name its log entry.
-/

open Sys2Proof Sys2Proof.Machine

/-! ### Encoding -/

/-- Bytes written out from the spec's encodings, one or more for each page, and the instructions they stand for. -/
def Obligations.WrittenBytesDecodeAsTheSpecNamesThem : Prop :=
  decode [0xC3, 0x34, 0x12] = .ok ⟨.jpNn 0x1234, 3, 1⟩ ∧
  decode [0x3E, 0x7F] = .ok ⟨.ldRN .a 0x7F, 2, 1⟩ ∧
  decode [0x76] = .ok ⟨.halt, 1, 1⟩ ∧
  decode [0x96] = .ok ⟨.subR .hlInd, 1, 1⟩ ∧
  decode [0xFA, 0x00, 0x90] = .ok ⟨.jpCcNn .m 0x9000, 3, 1⟩ ∧
  decode [0xCB, 0xDD] = .ok ⟨.setBR 3 .l, 2, 2⟩ ∧
  decode [0xCB, 0x6E] = .ok ⟨.bitBHLind 5, 2, 2⟩ ∧
  decode [0xED, 0x43, 0x00, 0x40] = .ok ⟨.ldNnindRp 0x4000 .bc, 4, 2⟩ ∧
  decode [0xED, 0xB0] = .ok ⟨.ldir, 2, 2⟩ ∧
  decode [0xDD, 0x36, 0x02, 0x5A] = .ok ⟨.ldIXdN 0x02 0x5A, 4, 2⟩ ∧
  decode [0xDD, 0xFD, 0x21, 0x34, 0x12] = .ok ⟨.ldIYNn 0x1234, 5, 3⟩ ∧
  decode [0xFD, 0xED, 0x4A] = .ok ⟨.adcHLRp .bc, 3, 3⟩ ∧
  decode [0xDD, 0xCB, 0x00, 0xED] = .ok ⟨.setIXdR 5 0x00 .l, 4, 2⟩ ∧
  decode [0xFD, 0xCB, 0x10, 0x6E] = .ok ⟨.bitIYd 5 0x10, 4, 2⟩

/-- Every well-formed instruction's encoding decodes to it, whatever follows; and on the ED, DD and FD pages any run of
DD and FD bytes before it changes nothing but the length and the fetches counted. That the bytes which select a page are
terms of their own, here left aside, is the model's choice (log 10). -/
def Obligations.EncodedInstructionsDecodeAfterAnyPrefixRun : Prop :=
  ∀ (i : Instr) (run rest : List Byte), i.wf = true → i.selects = none →
    (∀ b ∈ run, b = 0xDD ∨ b = 0xFD) → (run ≠ [] → i.page = .ed ∨ i.page = .ix ∨ i.page = .iy) →
    decode (run ++ encode i ++ rest)
      = .ok ⟨i, run.length + (encode i).length, run.length + i.page.select.length + 1⟩

/-- What decode answers is a well-formed instruction, no prefix byte, and no longer than the bytes it was given. -/
def Obligations.DecodeAnswersWellFormedInstructions : Prop :=
  ∀ (bs : List Byte) (d : Decoded), decode bs = .ok d →
    d.instr.wf = true ∧ d.instr.selects = none ∧ 1 ≤ d.fetches ∧ d.fetches ≤ d.len ∧ d.len ≤ bs.length

/-! ### One step -/

/-- When the bytes at pc decode to an instruction, the step is exec of it on the state in which pc is past all its bytes,
R has counted its fetches, `ei_pending` is down and the boundary's inputs are taken. That the inputs stand in a list is the
model's choice (log 8), and so is that `ei_pending` goes down before the meaning and not after it (log 15). -/
def Obligations.ARunningStepExecutesTheDecodedInstruction : Prop :=
  ∀ (s : State) (count : Nat) (d : Decoded), s.Undisturbed → count ≤ 65538 →
    decode (s.bytesFrom s.pc count) = .ok d →
    ∃ r, RCounts s.r r d.fetches ∧
      step s = exec d.instr
        { s with pc := s.pc + BitVec.ofNat 16 d.len, r := r, eiPending := false, inputs := s.inputs.tail }

/-- The step of a running machine ends in the fault exactly when every byte of memory is DD or FD. That R122's hang is
answered as a fault is the model's choice (log 11). -/
def Obligations.OnlyAnEndlessPrefixRunFaults : Prop :=
  ∀ (s : State) (f : Fault), s.Undisturbed →
    (step s = .fault f ↔ ∀ a : Word, s.readByte a = 0xDD ∨ s.readByte a = 0xFD)

/-- Every instruction completes but the unlisted encodings, which are refused, by their names, exactly under the settings
that refuse them; the state after reset has those settings. No instruction faults. The settings stand in the state by the
model's choice (log 1). -/
def Obligations.OnlyUnlistedEncodingsAreRefused : Prop :=
  State.reset.cfg.edUnlisted = .refuse ∧ State.reset.cfg.idxUnlisted = .refuse ∧
  ∀ (i : Instr) (s : State), i.wf = true →
    if ∃ op, i = .edUnlisted op ∧ s.cfg.edUnlisted = .refuse then ∃ op, exec i s = .refused (.edUnlisted op) ∧ i = .edUnlisted op
    else if s.cfg.idxUnlisted = .refuse ∧ ∃ op n1 n2, i = .ixUnlisted op n1 n2 ∨ i = .iyUnlisted op n1 n2 then
      ∃ op n1 n2, exec i s = .refused (.idxUnlisted op) ∧ (i = .ixUnlisted op n1 n2 ∨ i = .iyUnlisted op n1 n2)
    else ∃ t, exec i s = .next t

/-- Legal states stay legal: whatever a step does from a legal state, its next state is legal. The canonical form of memory is
the model's choice (log 3). -/
def Obligations.EveryStepKeepsTheStateLegal : Prop :=
  ∀ s t : State, Legal s → step s = .next t → Legal t

/-- The state after reset is legal, and holds the values R50 fixes. The registers R50 leaves unspecified are not spoken of
(log 2). -/
def Obligations.TheResetStateIsLegalAndFixed : Prop :=
  Legal State.reset ∧
  State.reset.pc = 0x0000 ∧ State.reset.iff1 = false ∧ State.reset.iff2 = false ∧ State.reset.im = .im0 ∧
  State.reset.i = 0x00 ∧ State.reset.r = 0x00 ∧ State.reset.halted = false ∧ State.reset.eiPending = false ∧
  State.reset.nmiPending = false

/-- What no instruction touches: the parameters, the inputs to come and the NMI latch. What it only adds to: the
record of port accesses, by one at most; the answers lined up are taken from the front, the free values in order. The
fields are the model's choice (logs 1, 5, 6, 7, 8). -/
def Obligations.InstructionsLeaveTheEnvironmentAlone : Prop :=
  ∀ (i : Instr) (s t : State), exec i s = .next t →
    t.cfg = s.cfg ∧ t.inputs = s.inputs ∧ t.nmiPending = s.nmiPending ∧ s.draws ≤ t.draws ∧
    (t.portIn = s.portIn ∨ t.portIn = s.portIn.tail) ∧ (t.io = s.io ∨ ∃ e, t.io = s.io ++ [e])

/-- An instruction that is on neither the DD nor the DD CB page neither reads nor writes IX; the same for FD and IY. -/
def Obligations.OnlyItsOwnPageReachesAnIndexRegister : Prop :=
  ∀ (i : Instr) (s t : State) (v : Word), exec i s = .next t →
    (i.page ≠ .ix → t.ix = s.ix ∧ exec i { s with ix := v } = .next { t with ix := v }) ∧
    (i.page ≠ .iy → t.iy = s.iy ∧ exec i { s with iy := v } = .next { t with iy := v })

/-- No listed instruction but EX AF, AF' and EXX reads or writes the alternate registers. -/
def Obligations.OnlyTheExchangesReachTheAlternateSet : Prop :=
  ∀ (i : Instr) (s t : State) (b : Bank), exec i s = .next t → i ≠ .exAFAF → i ≠ .exx →
    (∀ op n1 n2, i ≠ .ixUnlisted op n1 n2 ∧ i ≠ .iyUnlisted op n1 n2) →
    t.alt = s.alt ∧ exec i { s with alt := b } = .next { t with alt := b }

/-- Bit 7 of R stays through every step that is no reset and does not run LD R, A. -/
def Obligations.OnlyLdRAChangesBitSevenOfR : Prop :=
  ∀ (s t : State), s.boundary.reset = false → step s = .next t →
    t.r.toNat / 128 = s.r.toNat / 128 ∨
    (s.Undisturbed ∧ ∃ (count : Nat) (d : Decoded), decode (s.bytesFrom s.pc count) = .ok d ∧ d.instr = .ldRA)

/-! ### The stack gives back what was put -/

/-- What PUSH stores, POP loads, into the same pair or another; PUSH AF and POP AF carry all eight bits of F; and a RET after
a CALL comes back. SP is where it was, and of the other registers none has changed. -/
def Obligations.TheStackGivesBackWhatWasPut : Prop :=
  ∀ (s : State) (p q : RpPush) (nn : Word), s.mem.wf = true →
    (∃ t u, exec (.pushRp2 p) s = .next t ∧ exec (.popRp2 q) t = .next u ∧ u.rpPush q = s.rpPush p ∧
      (∀ o, o ≠ q → u.rpPush o = s.rpPush o) ∧ u.main.a = s.main.a ∧ u.main.f = s.main.f ∧
      u = { s with mem := u.mem, main := u.main }) ∧
    (∃ t u, exec .pushAF s = .next t ∧ exec .popAF t = .next u ∧ u = { s with mem := u.mem }) ∧
    (∃ t u, exec (.callNn nn) s = .next t ∧ exec .ret t = .next u ∧ u = { s with mem := u.mem })

/-! ### Loads and stores -/

/-- An 8-bit load replaces one register and nothing else. -/
def Obligations.ByteLoadsReplaceOneRegister : Prop :=
  ∀ (s : State) (r src : Reg8) (n d : Byte) (nn : Word),
    ∀ p ∈ ([(.ldRR r src, r, s.reg src), (.ldRN r n, r, n), (.ldRHLind r, r, s.readByte (pair s.main.h s.main.l)),
        (.ldABCind, .a, s.readByte (pair s.main.b s.main.c)), (.ldADEind, .a, s.readByte (pair s.main.d s.main.e)),
        (.ldANnind nn, .a, s.readByte nn), (.ldRIXd r d, r, s.readByte (s.ix + sext16 d)),
        (.ldRIYd r d, r, s.readByte (s.iy + sext16 d))] : List (Instr × Reg8 × Byte)),
      ∃ t, exec p.1 s = .next t ∧ t = { s with main := t.main } ∧ t.main.f = s.main.f ∧
        ∀ q, t.reg q = if q = p.2.1 then p.2.2 else s.reg q

/-- A 16-bit load of BC, DE, HL or SP, by a constant, from memory or from another register, and INC rp and DEC rp, replace
that one and no flag. -/
def Obligations.WordLoadsAndCountsReplaceOnePair : Prop :=
  ∀ (s : State) (p : Rp) (nn : Word),
    ∀ e ∈ ([(.ldRpNn p nn, p, nn), (.ldRpNnind p nn, p, pair (s.readByte (nn + 1)) (s.readByte nn)),
        (.ldHLNnind nn, .hl, pair (s.readByte (nn + 1)) (s.readByte nn)), (.ldSPHL, .sp, pair s.main.h s.main.l),
        (.ldSPIX, .sp, s.ix), (.ldSPIY, .sp, s.iy), (.incRp p, p, s.rp p + 1), (.decRp p, p, s.rp p - 1)] :
        List (Instr × Rp × Word)),
      ∃ t, exec e.1 s = .next t ∧ t = { s with main := t.main, sp := t.sp } ∧ t.main.a = s.main.a ∧
        t.main.f = s.main.f ∧ ∀ q, t.rp q = if q = e.2.1 then e.2.2 else s.rp q

/-- The loads, increments and decrements of IX and IY change that register alone. -/
def Obligations.IndexRegistersLoadAndCount : Prop :=
  ∀ (s : State) (nn : Word),
    exec (.ldIXNn nn) s = .next { s with ix := nn } ∧
    exec (.ldIYNn nn) s = .next { s with iy := nn } ∧
    exec (.ldIXNnind nn) s = .next { s with ix := pair (s.readByte (nn + 1)) (s.readByte nn) } ∧
    exec (.ldIYNnind nn) s = .next { s with iy := pair (s.readByte (nn + 1)) (s.readByte nn) } ∧
    exec .incIX s = .next { s with ix := s.ix + 1 } ∧ exec .decIX s = .next { s with ix := s.ix - 1 } ∧
    exec .incIY s = .next { s with iy := s.iy + 1 } ∧ exec .decIY s = .next { s with iy := s.iy - 1 }

/-- An 8-bit store writes one byte and changes no register. -/
def Obligations.ByteStoresWriteOneByte : Prop :=
  ∀ (s : State) (r : Reg8) (n d : Byte) (nn : Word), s.mem.wf = true →
    ∀ p ∈ ([(.ldBCindA, pair s.main.b s.main.c, s.main.a), (.ldDEindA, pair s.main.d s.main.e, s.main.a),
        (.ldNnindA nn, nn, s.main.a), (.ldHLindN n, pair s.main.h s.main.l, n),
        (.ldHLindR r, pair s.main.h s.main.l, s.reg r), (.ldIXdN d n, s.ix + sext16 d, n),
        (.ldIYdN d n, s.iy + sext16 d, n), (.ldIXdR d r, s.ix + sext16 d, s.reg r),
        (.ldIYdR d r, s.iy + sext16 d, s.reg r)] : List (Instr × Word × Byte)),
      ∃ t, exec p.1 s = .next t ∧ t = { s with mem := t.mem } ∧ StoresByte s t p.2.1 p.2.2

/-- A 16-bit store writes the low byte at nn and the high byte at nn + 1, and changes no register. -/
def Obligations.WordStoresWriteTwoBytesLowFirst : Prop :=
  ∀ (s : State) (p : Rp) (nn : Word), s.mem.wf = true →
    ∀ e ∈ ([(.ldNnindHL nn, pair s.main.h s.main.l), (.ldNnindRp nn p, s.rp p), (.ldNnindIX nn, s.ix),
        (.ldNnindIY nn, s.iy)] : List (Instr × Word)),
      ∃ t, exec e.1 s = .next t ∧ t = { s with mem := t.mem } ∧ StoresWord s t nn e.2

/-- A push stores the value below SP, the high byte at SP - 1 and the low byte at SP - 2, and lowers SP by two. -/
def Obligations.PushesStoreBelowTheStackPointer : Prop :=
  ∀ (s : State) (p : RpPush), s.mem.wf = true →
    ∀ e ∈ ([(.pushRp2 p, s.rpPush p), (.pushAF, pair s.main.a s.main.f.toByte), (.pushIX, s.ix), (.pushIY, s.iy)] :
        List (Instr × Word)),
      ∃ t, exec e.1 s = .next t ∧ t = { s with mem := t.mem, sp := s.sp - 2 } ∧ StoresWord s t (s.sp - 2) e.2

/-- A pop loads the two bytes at SP, the low half first, and raises SP by two. -/
def Obligations.PopsLoadFromTheStackPointer : Prop :=
  ∀ s : State,
    exec (.popRp2 .bc) s = .next { s with
      sp := s.sp + 2, main := { s.main with c := s.readByte s.sp, b := s.readByte (s.sp + 1) } } ∧
    exec (.popRp2 .de) s = .next { s with
      sp := s.sp + 2, main := { s.main with e := s.readByte s.sp, d := s.readByte (s.sp + 1) } } ∧
    exec (.popRp2 .hl) s = .next { s with
      sp := s.sp + 2, main := { s.main with l := s.readByte s.sp, h := s.readByte (s.sp + 1) } } ∧
    exec .popAF s = .next { s with
      sp := s.sp + 2
      main := { s.main with f := Flags.ofByte (s.readByte s.sp), a := s.readByte (s.sp + 1) } } ∧
    exec .popIX s = .next { s with sp := s.sp + 2, ix := pair (s.readByte (s.sp + 1)) (s.readByte s.sp) } ∧
    exec .popIY s = .next { s with sp := s.sp + 2, iy := pair (s.readByte (s.sp + 1)) (s.readByte s.sp) }

/-- EX AF, AF', EXX, EX DE, HL and EX (SP), HL, IX or IY exchange what they name and nothing else; SP stays. -/
def Obligations.ExchangesSwapWhatTheyName : Prop :=
  ∀ s : State,
    exec .exAFAF s = .next { s with
      main := { s.main with a := s.alt.a, f := s.alt.f }, alt := { s.alt with a := s.main.a, f := s.main.f } } ∧
    exec .exx s = .next { s with
      main := { s.alt with a := s.main.a, f := s.main.f }, alt := { s.main with a := s.alt.a, f := s.alt.f } } ∧
    exec .exDEHL s = .next { s with
      main := { s.main with d := s.main.h, e := s.main.l, h := s.main.d, l := s.main.e } } ∧
    (s.mem.wf = true → ∃ t u v,
      exec .exSPindHL s = .next t ∧ exec .exSPindIX s = .next u ∧ exec .exSPindIY s = .next v ∧
      t = { s with
        mem := t.mem, main := { s.main with h := s.readByte (s.sp + 1), l := s.readByte s.sp } } ∧
      StoresWord s t s.sp (pair s.main.h s.main.l) ∧
      u = { s with mem := u.mem, ix := pair (s.readByte (s.sp + 1)) (s.readByte s.sp) } ∧
      StoresWord s u s.sp s.ix ∧
      v = { s with mem := v.mem, iy := pair (s.readByte (s.sp + 1)) (s.readByte s.sp) } ∧
      StoresWord s v s.sp s.iy)

/-! ### 8-bit arithmetic and logic -/

/-- ADD and ADC, from a register, memory or a constant: A and C hold the 9-bit sum, H the carry out of bit 3, P/V whether
the signed sum is out of range, N is 0, S, Z, Y, X show the result; nothing else changes. -/
def Obligations.AdditionsHoldTheExactSum : Prop :=
  ∀ (s : State) (r : Operand8) (n d : Byte),
    ∀ p ∈ ([(.addAR r, s.operand r, false), (.addAN n, n, false), (.addAIXd d, s.readByte (s.ix + sext16 d), false),
        (.addAIYd d, s.readByte (s.iy + sext16 d), false), (.adcAR r, s.operand r, s.main.f.c),
        (.adcAN n, n, s.main.f.c), (.adcAIXd d, s.readByte (s.ix + sext16 d), s.main.f.c),
        (.adcAIYd d, s.readByte (s.iy + sext16 d), s.main.f.c)] : List (Instr × Byte × Bool)),
      ∃ t, exec p.1 s = .next t ∧ t = { s with main := { s.main with a := t.main.a, f := t.main.f } } ∧
        t.main.a.toNat + 256 * t.main.f.c.toNat = s.main.a.toNat + p.2.1.toNat + p.2.2.toNat ∧
        (t.main.f.h = true ↔ 16 ≤ s.main.a.toNat % 16 + p.2.1.toNat % 16 + p.2.2.toNat) ∧
        (t.main.f.pv = true ↔ s.main.a.toInt + p.2.1.toInt + p.2.2.toNat < -128 ∨
          127 < s.main.a.toInt + p.2.1.toInt + p.2.2.toNat) ∧
        t.main.f.n = false ∧ ShowsResult t.main.f t.main.a

/-- SUB, SBC and NEG: A and C hold the exact difference and its borrow, H the borrow into bit 3, P/V whether the signed
difference is out of range, N is 1, S, Z, Y, X show the result; nothing else changes. -/
def Obligations.SubtractionsHoldTheExactDifference : Prop :=
  ∀ (s : State) (r : Operand8) (n d : Byte),
    ∀ p ∈ ([(.subR r, s.main.a, s.operand r, false), (.subN n, s.main.a, n, false),
        (.subIXd d, s.main.a, s.readByte (s.ix + sext16 d), false),
        (.subIYd d, s.main.a, s.readByte (s.iy + sext16 d), false),
        (.sbcAR r, s.main.a, s.operand r, s.main.f.c), (.sbcAN n, s.main.a, n, s.main.f.c),
        (.sbcAIXd d, s.main.a, s.readByte (s.ix + sext16 d), s.main.f.c),
        (.sbcAIYd d, s.main.a, s.readByte (s.iy + sext16 d), s.main.f.c), (.neg, 0, s.main.a, false)] :
        List (Instr × Byte × Byte × Bool)),
      ∃ t, exec p.1 s = .next t ∧ t = { s with main := { s.main with a := t.main.a, f := t.main.f } } ∧
        t.main.a.toNat + p.2.2.1.toNat + p.2.2.2.toNat = p.2.1.toNat + 256 * t.main.f.c.toNat ∧
        (t.main.f.h = true ↔ p.2.1.toNat % 16 < p.2.2.1.toNat % 16 + p.2.2.2.toNat) ∧
        (t.main.f.pv = true ↔ p.2.1.toInt - p.2.2.1.toInt - p.2.2.2.toNat < -128 ∨
          127 < p.2.1.toInt - p.2.2.1.toInt - p.2.2.2.toNat) ∧
        t.main.f.n = true ∧ ShowsResult t.main.f t.main.a

/-- CP sets the flags of a subtraction and keeps A; Y and X are the operand's under `XY_OPEN = silicon`, and free
otherwise. -/
def Obligations.ComparesKeepTheAccumulator : Prop :=
  ∀ (s : State) (r : Operand8) (n d : Byte),
    ∀ p ∈ ([(.cpR r, s.operand r), (.cpN n, n), (.cpIXd d, s.readByte (s.ix + sext16 d)),
        (.cpIYd d, s.readByte (s.iy + sext16 d))] : List (Instr × Byte)),
      ∃ t, exec p.1 s = .next t ∧ t = { s with main := { s.main with f := t.main.f }, draws := t.draws } ∧
        (t.main.f.z = true ↔ s.main.a = p.2) ∧ (t.main.f.c = true ↔ s.main.a.toNat < p.2.toNat) ∧
        (t.main.f.s = true ↔ (s.main.a - p.2).toInt < 0) ∧
        (t.main.f.h = true ↔ s.main.a.toNat % 16 < p.2.toNat % 16) ∧
        (t.main.f.pv = true ↔ s.main.a.toInt - p.2.toInt < -128 ∨ 127 < s.main.a.toInt - p.2.toInt) ∧
        t.main.f.n = true ∧
        (s.cfg.xyOpen = .silicon → t.main.f.y = p.2.getLsbD 5 ∧ t.main.f.x = p.2.getLsbD 3 ∧ t.draws = s.draws)

/-- AND, XOR and OR: A is the bitwise result, P/V is 1 for an even number of ones, H is 1 for AND only, N and C are 0. -/
def Obligations.LogicSetsParityAndClearsCarry : Prop :=
  ∀ (s : State) (r : Operand8) (n d : Byte),
    ∀ v ∈ ([(.andR r, s.main.a &&& s.operand r, true), (.andN n, s.main.a &&& n, true),
        (.andIXd d, s.main.a &&& s.readByte (s.ix + sext16 d), true),
        (.andIYd d, s.main.a &&& s.readByte (s.iy + sext16 d), true),
        (.xorR r, s.main.a ^^^ s.operand r, false), (.xorN n, s.main.a ^^^ n, false),
        (.xorIXd d, s.main.a ^^^ s.readByte (s.ix + sext16 d), false),
        (.xorIYd d, s.main.a ^^^ s.readByte (s.iy + sext16 d), false),
        (.orR r, s.main.a ||| s.operand r, false), (.orN n, s.main.a ||| n, false),
        (.orIXd d, s.main.a ||| s.readByte (s.ix + sext16 d), false),
        (.orIYd d, s.main.a ||| s.readByte (s.iy + sext16 d), false)] : List (Instr × Byte × Bool)),
      ∃ t, exec v.1 s = .next t ∧ t = { s with main := { s.main with a := v.2.1, f := t.main.f } } ∧
        ShowsResult t.main.f v.2.1 ∧ t.main.f.h = v.2.2 ∧ (t.main.f.pv = true ↔ onesIn v.2.1 % 2 = 0) ∧
        t.main.f.n = false ∧ t.main.f.c = false

/-- INC r and DEC r: the register counts by one, P/V is 1 only at 7F or 80, H where the low nibble wraps, C stays. -/
def Obligations.RegistersCountByOneAndKeepCarry : Prop :=
  ∀ (s : State) (r : Reg8), ∃ t u, exec (.incR r) s = .next t ∧ exec (.decR r) s = .next u ∧
    t = { s with main := t.main } ∧ (∀ q, t.reg q = if q = r then s.reg r + 1 else s.reg q) ∧
    ShowsResult t.main.f (s.reg r + 1) ∧ (t.main.f.h = true ↔ (s.reg r).toNat % 16 = 15) ∧
    (t.main.f.pv = true ↔ s.reg r = 0x7F) ∧ t.main.f.n = false ∧ t.main.f.c = s.main.f.c ∧
    u = { s with main := u.main } ∧ (∀ q, u.reg q = if q = r then s.reg r - 1 else s.reg q) ∧
    ShowsResult u.main.f (s.reg r - 1) ∧ (u.main.f.h = true ↔ (s.reg r).toNat % 16 = 0) ∧
    (u.main.f.pv = true ↔ s.reg r = 0x80) ∧ u.main.f.n = true ∧ u.main.f.c = s.main.f.c

/-- INC and DEC of the byte at HL, IX + d or IY + d: that byte counts by one, with the flags of INC r and DEC r. -/
def Obligations.MemoryBytesCountByOneAndKeepCarry : Prop :=
  ∀ (s : State) (d : Byte), s.mem.wf = true →
    (∀ p ∈ ([(.incHLind, pair s.main.h s.main.l), (.incIXd d, s.ix + sext16 d), (.incIYd d, s.iy + sext16 d)] :
        List (Instr × Word)), ∃ t, exec p.1 s = .next t ∧
      t = { s with mem := t.mem, main := { s.main with f := t.main.f } } ∧
      StoresByte s t p.2 (s.readByte p.2 + 1) ∧ ShowsResult t.main.f (s.readByte p.2 + 1) ∧
      (t.main.f.h = true ↔ (s.readByte p.2).toNat % 16 = 15) ∧ (t.main.f.pv = true ↔ s.readByte p.2 = 0x7F) ∧
      t.main.f.n = false ∧ t.main.f.c = s.main.f.c) ∧
    (∀ p ∈ ([(.decHLind, pair s.main.h s.main.l), (.decIXd d, s.ix + sext16 d), (.decIYd d, s.iy + sext16 d)] :
        List (Instr × Word)), ∃ t, exec p.1 s = .next t ∧
      t = { s with mem := t.mem, main := { s.main with f := t.main.f } } ∧
      StoresByte s t p.2 (s.readByte p.2 - 1) ∧ ShowsResult t.main.f (s.readByte p.2 - 1) ∧
      (t.main.f.h = true ↔ (s.readByte p.2).toNat % 16 = 0) ∧ (t.main.f.pv = true ↔ s.readByte p.2 = 0x80) ∧
      t.main.f.n = true ∧ t.main.f.c = s.main.f.c)

/-- DAA after ADC of two packed-BCD bytes gives the packed-BCD sum, C its hundreds; after SBC, the difference, C its
borrow. -/
def Obligations.DaaCorrectsPackedDecimalSumsAndDifferences : Prop :=
  ∀ (s : State) (m n : Nat), m < 100 → n < 100 → s.main.a = bcd m →
    ∃ t u v w, exec (.adcAN (bcd n)) s = .next t ∧ exec .daa t = .next u ∧
      exec (.sbcAN (bcd n)) s = .next v ∧ exec .daa v = .next w ∧
      u.main.a = bcd ((m + n + s.main.f.c.toNat) % 100) ∧
      (u.main.f.c = true ↔ 100 ≤ m + n + s.main.f.c.toNat) ∧
      w.main.a = bcd ((m + 100 - n - s.main.f.c.toNat) % 100) ∧
      (w.main.f.c = true ↔ m < n + s.main.f.c.toNat)

/-- DAA on any A and F: the correction, its direction, and every flag; nothing else changes. -/
def Obligations.DaaAdjustsByTheFlagsAndNibbles : Prop :=
  ∀ s : State, ∃ (t : State) (corr : Nat), exec .daa s = .next t ∧
    t = { s with main := { s.main with a := t.main.a, f := t.main.f } } ∧
    corr = (if s.main.f.h = true ∨ 9 < s.main.a.toNat % 16 then 6 else 0)
      + (if s.main.f.c = true ∨ 0x99 < s.main.a.toNat then 0x60 else 0) ∧
    t.main.a.toNat = (if s.main.f.n = true then s.main.a.toNat + 256 - corr else s.main.a.toNat + corr) % 256 ∧
    ShowsResult t.main.f t.main.a ∧ (t.main.f.pv = true ↔ onesIn t.main.a % 2 = 0) ∧ t.main.f.n = s.main.f.n ∧
    (t.main.f.c = true ↔ s.main.f.c = true ∨ 0x99 < s.main.a.toNat) ∧
    (t.main.f.h = true ↔ if s.main.f.n = true then s.main.f.h = true ∧ s.main.a.toNat % 16 < 6
      else 9 < s.main.a.toNat % 16)

/-- CPL complements A; CPL, SCF and CCF set H, N and C as their rules say and keep S, Z and P/V. Y and X after SCF and CCF
are free. -/
def Obligations.ComplementAndCarryInstructions : Prop :=
  ∀ s : State, ∃ t u v, exec .cpl s = .next t ∧ exec .scf s = .next u ∧ exec .ccf s = .next v ∧
    t = { s with main := { s.main with
      a := ~~~s.main.a
      f := { s.main.f with y := (~~~s.main.a).getLsbD 5, x := (~~~s.main.a).getLsbD 3, h := true, n := true } } } ∧
    u = { s with
      main := { s.main with f := { s.main.f with y := u.main.f.y, x := u.main.f.x, h := false, n := false, c := true } }
      draws := u.draws } ∧
    v = { s with
      main := { s.main with
        f := { s.main.f with y := v.main.f.y, x := v.main.f.x, h := s.main.f.c, n := false, c := !s.main.f.c } }
      draws := v.draws }

/-! ### 16-bit arithmetic -/

/-- ADD HL, rp and ADD IX or IY, rr: the sum and C, H from bit 11, N is 0, S, Z, P/V stay; Y and X are bits 13 and 11 of
the sum under `XY_OPEN = silicon`, and free otherwise. -/
def Obligations.WideAdditionsKeepSignZeroParity : Prop :=
  ∀ (s : State) (p : Rp) (x : RpIndex), ∃ t u v,
    exec (.addHLRp p) s = .next t ∧ exec (.addIXRr x) s = .next u ∧ exec (.addIYRr x) s = .next v ∧
    t = { s with main := { s.main with h := t.main.h, l := t.main.l, f := t.main.f }, draws := t.draws } ∧
    u = { s with ix := u.ix, main := { s.main with f := u.main.f }, draws := u.draws } ∧
    v = { s with iy := v.iy, main := { s.main with f := v.main.f }, draws := v.draws } ∧
    ∀ e ∈ [(t, pair s.main.h s.main.l, s.rp p, pair t.main.h t.main.l), (u, s.ix, s.rpIndex .ix x, u.ix),
        (v, s.iy, s.rpIndex .iy x, v.iy)],
      e.2.2.2.toNat + 65536 * e.1.main.f.c.toNat = e.2.1.toNat + e.2.2.1.toNat ∧
      (e.1.main.f.h = true ↔ 4096 ≤ e.2.1.toNat % 4096 + e.2.2.1.toNat % 4096) ∧ e.1.main.f.n = false ∧
      e.1.main.f.s = s.main.f.s ∧ e.1.main.f.z = s.main.f.z ∧ e.1.main.f.pv = s.main.f.pv ∧
      (s.cfg.xyOpen = .silicon →
        e.1.main.f.y = e.2.2.2.getLsbD 13 ∧ e.1.main.f.x = e.2.2.2.getLsbD 11 ∧ e.1.draws = s.draws)

/-- ADC HL, rp and SBC HL, rp: the exact sum or difference with C, H from bit 11, P/V signed overflow, S and Z from all 16
bits; Y and X as for ADD HL. -/
def Obligations.WideAdditionsAndSubtractionsWithCarry : Prop :=
  ∀ (s : State) (p : Rp), ∃ t u, exec (.adcHLRp p) s = .next t ∧ exec (.sbcHLRp p) s = .next u ∧
    (∀ e ∈ [t, u],
      e = { s with main := { s.main with h := e.main.h, l := e.main.l, f := e.main.f }, draws := e.draws } ∧
      (e.main.f.s = true ↔ (pair e.main.h e.main.l).toInt < 0) ∧
      (e.main.f.z = true ↔ pair e.main.h e.main.l = 0) ∧
      (s.cfg.xyOpen = .silicon →
        e.main.f.y = e.main.h.getLsbD 5 ∧ e.main.f.x = e.main.h.getLsbD 3 ∧ e.draws = s.draws)) ∧
    (pair t.main.h t.main.l).toNat + 65536 * t.main.f.c.toNat
      = (s.rp .hl).toNat + (s.rp p).toNat + s.main.f.c.toNat ∧
    (t.main.f.h = true ↔ 4096 ≤ (s.rp .hl).toNat % 4096 + (s.rp p).toNat % 4096 + s.main.f.c.toNat) ∧
    (t.main.f.pv = true ↔ (s.rp .hl).toInt + (s.rp p).toInt + s.main.f.c.toNat < -32768 ∨
      32767 < (s.rp .hl).toInt + (s.rp p).toInt + s.main.f.c.toNat) ∧ t.main.f.n = false ∧
    (pair u.main.h u.main.l).toNat + (s.rp p).toNat + s.main.f.c.toNat
      = (s.rp .hl).toNat + 65536 * u.main.f.c.toNat ∧
    (u.main.f.h = true ↔ (s.rp .hl).toNat % 4096 < (s.rp p).toNat % 4096 + s.main.f.c.toNat) ∧
    (u.main.f.pv = true ↔ (s.rp .hl).toInt - (s.rp p).toInt - s.main.f.c.toNat < -32768 ∨
      32767 < (s.rp .hl).toInt - (s.rp p).toInt - s.main.f.c.toNat) ∧ u.main.f.n = true

/-! ### Rotates, shifts and bits -/

/-- RLCA, RRCA, RLA and RRA rotate A; C is the bit that left, H and N are 0, Y and X show A, S, Z and P/V stay. -/
def Obligations.AccumulatorRotatesKeepSignZeroParity : Prop :=
  ∀ s : State, ∀ p ∈ ([(.rlca, .rlc), (.rrca, .rrc), (.rla, .rl), (.rra, .rr)] : List (Instr × Rot)),
    ∃ t, exec p.1 s = .next t ∧
      t = { s with main := { s.main with
        a := rotated p.2 s.main.a s.main.f.c s.cfg.sllBit0
        f := { s.main.f with
          y := t.main.a.getLsbD 5, x := t.main.a.getLsbD 3, h := false, n := false, c := carriedOut p.2 s.main.a } } }

/-- The eight rotates and shifts of the CB page on a register or on the byte at HL: the result, C the bit that left, S, Z,
Y, X from the result, P/V its parity, H and N 0. -/
def Obligations.RotatesAndShiftsOfRegisterOrMemory : Prop :=
  ∀ (s : State) (z : Operand8), s.mem.wf = true →
    ∀ p ∈ ([(.rlcR z, .rlc), (.rrcR z, .rrc), (.rlR z, .rl), (.rrR z, .rr), (.slaR z, .sla), (.sraR z, .sra),
        (.sllR z, .sll), (.srlR z, .srl)] : List (Instr × Rot)),
      ∃ t res, exec p.1 s = .next t ∧ res = rotated p.2 (s.operand z) s.main.f.c s.cfg.sllBit0 ∧
        ShowsResult t.main.f res ∧ t.main.f.h = false ∧ (t.main.f.pv = true ↔ onesIn res % 2 = 0) ∧
        t.main.f.n = false ∧ t.main.f.c = carriedOut p.2 (s.operand z) ∧
        (∀ r, z = .reg r → t = { s with main := t.main } ∧ ∀ q, t.reg q = if q = r then res else s.reg q) ∧
        (z = .hlInd → t = { s with mem := t.mem, main := { s.main with f := t.main.f } } ∧
          StoresByte s t (pair s.main.h s.main.l) res)

/-- The same on the byte at IX + d or IY + d; the forms that name a register write the result there too. -/
def Obligations.RotatesAndShiftsOfIndexedMemory : Prop :=
  ∀ (s : State) (o : Rot) (d : Byte) (r : Reg8), s.mem.wf = true →
    ∀ p ∈ ([(.rotIXd o d, s.ix + sext16 d, none), (.rotIYd o d, s.iy + sext16 d, none),
        (.rotIXdR o d r, s.ix + sext16 d, some r), (.rotIYdR o d r, s.iy + sext16 d, some r)] :
        List (Instr × Word × Option Reg8)),
      ∃ t res, exec p.1 s = .next t ∧ res = rotated o (s.readByte p.2.1) s.main.f.c s.cfg.sllBit0 ∧
        t = { s with mem := t.mem, main := t.main } ∧ StoresByte s t p.2.1 res ∧
        (∀ q, t.reg q = if some q = p.2.2 then res else s.reg q) ∧
        ShowsResult t.main.f res ∧ t.main.f.h = false ∧ (t.main.f.pv = true ↔ onesIn res % 2 = 0) ∧
        t.main.f.n = false ∧ t.main.f.c = carriedOut o (s.readByte p.2.1)

/-- BIT: Z and P/V are 1 exactly when the bit is 0, S only for bit 7 set, H is 1, N is 0, C stays, and nothing but F
changes. Y and X: silicon's source where R44 gives one; free otherwise. -/
def Obligations.BitTestsOnlyWriteFlags : Prop :=
  ∀ (s : State) (b : Fin 8) (r : Reg8) (d : Byte),
    ∀ p ∈ ([(.bitBR b r, s.reg r, some ((s.reg r).getLsbD 5, (s.reg r).getLsbD 3)),
        (.bitBHLind b, s.readByte (pair s.main.h s.main.l), none),
        (.bitIXd b d, s.readByte (s.ix + sext16 d),
          some ((s.ix + sext16 d).getLsbD 13, (s.ix + sext16 d).getLsbD 11)),
        (.bitIYd b d, s.readByte (s.iy + sext16 d),
          some ((s.iy + sext16 d).getLsbD 13, (s.iy + sext16 d).getLsbD 11))] :
        List (Instr × Byte × Option (Bool × Bool))),
      ∃ t, exec p.1 s = .next t ∧ t = { s with main := { s.main with f := t.main.f }, draws := t.draws } ∧
        (t.main.f.z = true ↔ p.2.1.toNat / 2 ^ b.val % 2 = 0) ∧ t.main.f.pv = t.main.f.z ∧
        (t.main.f.s = true ↔ b = 7 ∧ 128 ≤ p.2.1.toNat) ∧ t.main.f.h = true ∧ t.main.f.n = false ∧
        t.main.f.c = s.main.f.c ∧
        (∀ v, s.cfg.xyOpen = .silicon → p.2.2 = some v →
          t.main.f.y = v.1 ∧ t.main.f.x = v.2 ∧ t.draws = s.draws)

/-- RES and SET on a register change that bit of that register and no flag. -/
def Obligations.ResAndSetChangeOneBitOfARegister : Prop :=
  ∀ (s : State) (b : Fin 8) (r : Reg8),
    ∀ p ∈ ([(.resBR b r, false), (.setBR b r, true)] : List (Instr × Bool)),
      ∃ t, exec p.1 s = .next t ∧ t = { s with main := t.main } ∧ t.main.f = s.main.f ∧
        (∀ q, q ≠ r → t.reg q = s.reg q) ∧
        ∀ k : Fin 8, (t.reg r).getLsbD k = if k = b then p.2 else (s.reg r).getLsbD k

/-- RES and SET on the byte at HL, IX + d or IY + d change that bit of that byte; the forms that name a register write the
byte there too; no flag changes. -/
def Obligations.ResAndSetChangeOneBitOfMemory : Prop :=
  ∀ (s : State) (b : Fin 8) (r : Reg8) (d : Byte), s.mem.wf = true →
    ∀ p ∈ ([(.resBHLind b, pair s.main.h s.main.l, none, false), (.setBHLind b, pair s.main.h s.main.l, none, true),
        (.resIXd b d, s.ix + sext16 d, none, false), (.setIXd b d, s.ix + sext16 d, none, true),
        (.resIYd b d, s.iy + sext16 d, none, false), (.setIYd b d, s.iy + sext16 d, none, true),
        (.resIXdR b d r, s.ix + sext16 d, some r, false), (.setIXdR b d r, s.ix + sext16 d, some r, true),
        (.resIYdR b d r, s.iy + sext16 d, some r, false), (.setIYdR b d r, s.iy + sext16 d, some r, true)] :
        List (Instr × Word × Option Reg8 × Bool)),
      ∃ t res, exec p.1 s = .next t ∧ t = { s with mem := t.mem, main := t.main } ∧ t.main.f = s.main.f ∧
        StoresByte s t p.2.1 res ∧ (∀ q, t.reg q = if some q = p.2.2.1 then res else s.reg q) ∧
        ∀ k : Fin 8, res.getLsbD k = if k = b then p.2.2.2 else (s.readByte p.2.1).getLsbD k

/-! ### Control flow -/

/-- The eight conditions by number and flag, the instructions that test them, and DJNZ, which tests no flag. -/
def Obligations.ConditionsTestTheirFlags : Prop :=
  (∀ f : Flags, ∀ e ∈ [(Cond.nz, 0, !f.z), (.z, 1, f.z), (.nc, 2, !f.c), (.c, 3, f.c), (.po, 4, !f.pv), (.pe, 5, f.pv),
      (.p, 6, !f.s), (.m, 7, f.s)], e.1.code = e.2.1 ∧ condOf e.2.1 = e.1 ∧ f.cond e.1 = e.2.2) ∧
  (∀ (s : State) (cc : Cond) (nn : Word),
    exec (.jpCcNn cc nn) s = (if s.main.f.cond cc = true then exec (.jpNn nn) s else .next s) ∧
    exec (.callCcNn cc nn) s = (if s.main.f.cond cc = true then exec (.callNn nn) s else .next s) ∧
    exec (.retCc cc) s = (if s.main.f.cond cc = true then exec .ret s else .next s)) ∧
  (∀ (s : State) (d : Byte), ∀ e ∈ [(JrCond.nz, Cond.nz), (.z, .z), (.nc, .nc), (.c, .c)],
    e.1.code = e.2.code + 4 ∧ exec (.jrCc e.1 d) s = if s.main.f.cond e.2 = true then exec (.jr d) s else .next s) ∧
  (∀ (s t : State) (f : Flags) (d : Byte), exec (.djnz d) s = .next t →
    exec (.djnz d) { s with main := { s.main with f := f } } = .next { t with main := { t.main with f := f } })

/-- Jumps write pc and nothing else; a conditional one only when its flag test holds. DJNZ counts B and tests it. -/
def Obligations.JumpsOnlyMoveTheProgramCounter : Prop :=
  ∀ (s : State) (cc : Cond) (d : Byte) (nn : Word),
    exec (.jpNn nn) s = .next { s with pc := nn } ∧
    exec (.jpCcNn cc nn) s = .next (if s.main.f.cond cc = true then { s with pc := nn } else s) ∧
    exec .jpHL s = .next { s with pc := pair s.main.h s.main.l } ∧
    exec .jpIX s = .next { s with pc := s.ix } ∧ exec .jpIY s = .next { s with pc := s.iy } ∧
    exec (.jr d) s = .next { s with pc := s.pc + d.signExtend 16 } ∧
    (∀ p ∈ [(JrCond.nz, !s.main.f.z), (.z, s.main.f.z), (.nc, !s.main.f.c), (.c, s.main.f.c)],
      exec (.jrCc p.1 d) s = .next (if p.2 = true then { s with pc := s.pc + d.signExtend 16 } else s)) ∧
    exec (.djnz d) s = .next
      { s with
        main := { s.main with b := s.main.b - 1 }
        pc := if s.main.b = 1 then s.pc else s.pc + d.signExtend 16 }

/-- CALL, CALL cc and RST push the address of the next instruction and jump; a CALL cc whose test fails does nothing. -/
def Obligations.CallsPushTheReturnAddress : Prop :=
  ∀ (s : State) (cc : Cond) (y : Fin 8) (nn : Word), s.mem.wf = true →
    (∀ p ∈ ([(.callNn nn, nn), (.rst y, BitVec.ofNat 16 (8 * y.val))] : List (Instr × Word)),
      ∃ t, exec p.1 s = .next t ∧ t = { s with mem := t.mem, sp := s.sp - 2, pc := p.2 } ∧
        StoresWord s t (s.sp - 2) s.pc) ∧
    ∃ t, exec (.callNn nn) s = .next t ∧ exec (.callCcNn cc nn) s = .next (if s.main.f.cond cc = true then t else s)

/-- RET pops pc; RET cc does so only when its test holds; RETN copies IFF2 to IFF1 too, RETI where the parameter says so. -/
def Obligations.ReturnsPopTheProgramCounter : Prop :=
  ∀ (s t : State) (cc : Cond),
    t = { s with pc := pair (s.readByte (s.sp + 1)) (s.readByte s.sp), sp := s.sp + 2 } →
    exec .ret s = .next t ∧ exec (.retCc cc) s = .next (if s.main.f.cond cc = true then t else s) ∧
    exec .retn s = .next { t with iff1 := s.iff2 } ∧
    exec .reti s = .next { t with iff1 := if s.cfg.retiCopiesIff2 = true then s.iff2 else s.iff1 }

/-! ### Input and output -/

/-- The port reads: the port's address, the register that takes the byte, the flags, the record, and the answer taken; the
byte is the environment's, and any byte where none is lined up. The port writes: the pair is recorded, nothing else. How
answers and accesses are held is the model's choice (logs 6 and 7). -/
def Obligations.PortsAreReadAndWrittenInTheRecord : Prop :=
  ∀ (s : State) (r : Reg8) (n : Byte),
    (∀ p ∈ ([(.inAN n, pair s.main.a n, some .a, false), (.inRC r, pair s.main.b s.main.c, some r, true),
        (.inFC, pair s.main.b s.main.c, none, true)] : List (Instr × Word × Option Reg8 × Bool)),
      ∃ t v, exec p.1 s = .next t ∧
        t = { s with main := t.main, io := s.io ++ [.read p.2.1 v], portIn := s.portIn.tail, draws := t.draws } ∧
        (∀ w rest, s.portIn = w :: rest → v = w ∧ t.draws = s.draws) ∧
        (∀ q, t.reg q = if some q = p.2.2.1 then v else s.reg q) ∧
        (if p.2.2.2 = true then
          ShowsResult t.main.f v ∧ t.main.f.h = false ∧ (t.main.f.pv = true ↔ onesIn v % 2 = 0) ∧
            t.main.f.n = false ∧ t.main.f.c = s.main.f.c
        else t.main.f = s.main.f)) ∧
    exec (.outNA n) s = .next { s with io := s.io ++ [.write (pair s.main.a n) s.main.a] } ∧
    exec (.outCR r) s = .next { s with io := s.io ++ [.write (pair s.main.b s.main.c) (s.reg r)] } ∧
    exec .outC0 s = .next { s with io := s.io ++ [.write (pair s.main.b s.main.c) s.cfg.outC0] }

/-! ### Interrupt control, I, R and the decimal rotates -/

/-- NOP and the bytes that select a page have no effect of their own; DI, EI, IM and HALT write the flip-flops, the mode and
the latches they name. -/
def Obligations.NopPageBytesAndInterruptControl : Prop :=
  ∀ s : State,
    (∀ i ∈ [Instr.nop, .cbPrefix, .ddPrefix, .edPrefix, .fdPrefix, .ddPrefixAfterDd, .edPrefixAfterDd,
      .fdPrefixAfterDd, .ddPrefixAfterFd, .edPrefixAfterFd, .fdPrefixAfterFd], exec i s = .next s) ∧
    exec .di s = .next { s with iff1 := false, iff2 := false } ∧
    exec .ei s = .next { s with iff1 := true, iff2 := true, eiPending := true } ∧
    exec .im0 s = .next { s with im := .im0 } ∧ exec .im1 s = .next { s with im := .im1 } ∧
    exec .im2 s = .next { s with im := .im2 } ∧ exec .halt s = .next { s with halted := true }

/-- LD I, A and LD R, A copy A; LD A, I and LD A, R load A, show it in S, Z, Y, X, put IFF2 into P/V and keep C. With
`R_TRACKING = draw` the low seven bits that LD A, R loads are free. -/
def Obligations.InterruptPageAndRefreshLoads : Prop :=
  ∀ s : State, ∃ t u,
    exec .ldIA s = .next { s with i := s.main.a } ∧ exec .ldRA s = .next { s with r := s.main.a } ∧
    exec .ldAI s = .next t ∧ exec .ldAR s = .next u ∧ t.main.a = s.i ∧ t.draws = s.draws ∧
    u.main.a.toNat / 128 = s.r.toNat / 128 ∧
    (s.cfg.rTracking = .exact → u.main.a = s.r ∧ u.draws = s.draws) ∧
    ∀ e ∈ [t, u],
      e = { s with main := { s.main with a := e.main.a, f := e.main.f }, draws := e.draws } ∧
      ShowsResult e.main.f e.main.a ∧ e.main.f.h = false ∧ e.main.f.pv = s.iff2 ∧ e.main.f.n = false ∧
      e.main.f.c = s.main.f.c

/-- RRD and RLD rotate the nibbles of the byte at HL through the low nibble of A; the flags are from A, C stays. -/
def Obligations.DecimalRotatesMoveNibbles : Prop :=
  ∀ s : State, s.mem.wf = true → ∀ m, m = s.readByte (pair s.main.h s.main.l) →
    ∀ p ∈ ([(.rrd, 16 * (s.main.a.toNat % 16) + m.toNat / 16, 16 * (s.main.a.toNat / 16) + m.toNat % 16),
        (.rld, 16 * (m.toNat % 16) + s.main.a.toNat % 16, 16 * (s.main.a.toNat / 16) + m.toNat / 16)] :
        List (Instr × Nat × Nat)),
      ∃ t, exec p.1 s = .next t ∧
        t = { s with mem := t.mem, main := { s.main with a := BitVec.ofNat 8 p.2.2, f := t.main.f } } ∧
        StoresByte s t (pair s.main.h s.main.l) (BitVec.ofNat 8 p.2.1) ∧
        ShowsResult t.main.f t.main.a ∧ t.main.f.h = false ∧ (t.main.f.pv = true ↔ onesIn t.main.a % 2 = 0) ∧
        t.main.f.n = false ∧ t.main.f.c = s.main.f.c

/-- RRD after RLD puts A and memory back, and the other way round. -/
def Obligations.DecimalRotatesUndoEachOther : Prop :=
  ∀ s : State, s.mem.wf = true →
    ∃ t u v w, exec .rld s = .next t ∧ exec .rrd t = .next u ∧ exec .rrd s = .next v ∧ exec .rld v = .next w ∧
      u = { s with main := { s.main with f := u.main.f } } ∧ w = { s with main := { s.main with f := w.main.f } }

/-! ### Block instructions -/

/-- LDI, LDD, LDIR, LDDR: one byte moved, the pointers and the counter stepped, the flags, and for the repeating forms pc
back at the instruction until BC is 0. -/
def Obligations.BlockLoadsMoveOneByteAndCount : Prop :=
  ∀ s : State, s.mem.wf = true →
    ∀ p ∈ ([(.ldi, 1, false), (.ldd, -1, false), (.ldir, 1, true), (.lddr, -1, true)] : List (Instr × Word × Bool)),
      ∃ t, exec p.1 s = .next t ∧
        t = { s with
          mem := t.mem, main := { t.main with a := s.main.a }, pc := t.pc, draws := t.draws } ∧
        StoresByte s t (s.rp .de) (s.readByte (s.rp .hl)) ∧
        t.rp .hl = s.rp .hl + p.2.1 ∧ t.rp .de = s.rp .de + p.2.1 ∧ t.rp .bc = s.rp .bc - 1 ∧
        t.pc = (if p.2.2 = true ∧ s.rp .bc ≠ 1 then s.pc - 2 else s.pc) ∧
        t.main.f = { s.main.f with
          y := t.main.f.y, x := t.main.f.x, h := false, n := false, pv := decide (s.rp .bc ≠ 1) } ∧
        (s.cfg.xyOpen = .silicon →
          t.main.f.y = (s.main.a + s.readByte (s.rp .hl)).getLsbD 1 ∧
          t.main.f.x = (s.main.a + s.readByte (s.rp .hl)).getLsbD 3 ∧ t.draws = s.draws)

/-- CPI, CPD, CPIR, CPDR: A is compared with the byte at HL, the pointer and the counter are stepped, and the repeating
forms go back until a match or BC = 0. -/
def Obligations.BlockComparesStopAtAMatch : Prop :=
  ∀ (s : State) (v : Byte), v = s.readByte (s.rp .hl) →
    ∀ p ∈ ([(.cpi, 1, false), (.cpd, -1, false), (.cpir, 1, true), (.cpdr, -1, true)] : List (Instr × Word × Bool)),
      ∃ t, exec p.1 s = .next t ∧
        t = { s with
          main := { t.main with a := s.main.a, d := s.main.d, e := s.main.e }, pc := t.pc, draws := t.draws } ∧
        t.rp .hl = s.rp .hl + p.2.1 ∧ t.rp .bc = s.rp .bc - 1 ∧
        t.pc = (if p.2.2 = true ∧ s.rp .bc ≠ 1 ∧ s.main.a ≠ v then s.pc - 2 else s.pc) ∧
        (t.main.f.s = true ↔ (s.main.a - v).toInt < 0) ∧ (t.main.f.z = true ↔ s.main.a = v) ∧
        (t.main.f.h = true ↔ s.main.a.toNat % 16 < v.toNat % 16) ∧
        (t.main.f.pv = true ↔ s.rp .bc ≠ 1) ∧ t.main.f.n = true ∧ t.main.f.c = s.main.f.c ∧
        (s.cfg.xyOpen = .silicon → ∀ k, k = s.main.a - v - BitVec.ofNat 8 t.main.f.h.toNat →
          t.main.f.y = k.getLsbD 1 ∧ t.main.f.x = k.getLsbD 3 ∧ t.draws = s.draws)

/-- INI, IND, INIR, INDR: the byte read from port BC is stored at HL, HL and B are stepped, Z tells B = 0, and the
repeating forms go back until B is 0. The other flags are free unless `BLOCK_IO_FLAGS = silicon`; that this parameter alone
governs them is the model's reading (log 18). -/
def Obligations.BlockInputsStoreAndCount : Prop :=
  ∀ s : State, s.mem.wf = true →
    ∀ p ∈ ([(.ini, 1, false), (.ind, -1, false), (.inir, 1, true), (.indr, -1, true)] : List (Instr × Word × Bool)),
      ∃ t v, exec p.1 s = .next t ∧
        t = { s with
          mem := t.mem, io := s.io ++ [.read (s.rp .bc) v], portIn := s.portIn.tail
          main := { s.main with b := s.main.b - 1, h := t.main.h, l := t.main.l, f := t.main.f }
          pc := t.pc, draws := t.draws } ∧
        (∀ w rest, s.portIn = w :: rest → v = w) ∧ StoresByte s t (s.rp .hl) v ∧ t.rp .hl = s.rp .hl + p.2.1 ∧
        t.pc = (if p.2.2 = true ∧ s.main.b ≠ 1 then s.pc - 2 else s.pc) ∧
        (t.main.f.z = true ↔ s.main.b = 1) ∧
        (s.cfg.blockIoFlags = .silicon → ∀ k, k = v.toNat + (s.main.c + lo p.2.1).toNat →
          ShowsResult t.main.f (s.main.b - 1) ∧ t.main.f.n = v.getLsbD 7 ∧ (t.main.f.h = true ↔ 256 ≤ k) ∧
          (t.main.f.c = true ↔ 256 ≤ k) ∧
          (t.main.f.pv = true ↔ onesIn (BitVec.ofNat 8 (k % 8) ^^^ (s.main.b - 1)) % 2 = 0))

/-- OUTI, OUTD, OTIR, OTDR: the byte at HL is written to the port whose high byte is B after the decrement; the rest as
for the block inputs. -/
def Obligations.BlockOutputsWriteAndCount : Prop :=
  ∀ s : State,
    ∀ p ∈ ([(.outi, 1, false), (.outd, -1, false), (.otir, 1, true), (.otdr, -1, true)] : List (Instr × Word × Bool)),
      ∃ t v, exec p.1 s = .next t ∧ v = s.readByte (s.rp .hl) ∧
        t = { s with
          io := s.io ++ [.write (pair (s.main.b - 1) s.main.c) v]
          main := { s.main with b := s.main.b - 1, h := t.main.h, l := t.main.l, f := t.main.f }
          pc := t.pc, draws := t.draws } ∧
        t.rp .hl = s.rp .hl + p.2.1 ∧
        t.pc = (if p.2.2 = true ∧ s.main.b ≠ 1 then s.pc - 2 else s.pc) ∧
        (t.main.f.z = true ↔ s.main.b = 1) ∧
        (s.cfg.blockIoFlags = .silicon → ∀ k, k = v.toNat + t.main.l.toNat →
          ShowsResult t.main.f (s.main.b - 1) ∧ t.main.f.n = v.getLsbD 7 ∧ (t.main.f.h = true ↔ 256 ≤ k) ∧
          (t.main.f.c = true ↔ 256 ≤ k) ∧
          (t.main.f.pv = true ↔ onesIn (BitVec.ofNat 8 (k % 8) ^^^ (s.main.b - 1)) % 2 = 0))

/-! ### Encodings the source does not list -/

/-- The ED opcodes the source does not list decode to themselves, are refused by name with `ED_UNLISTED = refuse`, and with
`ED_UNLISTED = silicon` are NEG, RETN, an IM instruction or nothing. -/
def Obligations.UnlistedEdOpcodesAreRefusedOrAsOnSilicon : Prop :=
  ∀ (s : State) (op : Byte),
    (op.toNat < 0x40 ∨ op ∈ [0x54, 0x55, 0x5C, 0x5D, 0x64, 0x65, 0x66, 0x6C, 0x6D, 0x6E, 0x74, 0x75, 0x76, 0x77, 0x7C,
        0x7D, 0x7E, 0x7F] ∨
      (0x80 ≤ op.toNat ∧ (op.toNat < 0xA0 ∨ 4 ≤ op.toNat % 8 ∨ 0xC0 ≤ op.toNat))) →
    decode [0xED, op] = .ok ⟨.edUnlisted op, 2, 2⟩ ∧
    (s.cfg.edUnlisted = .refuse → exec (.edUnlisted op) s = .refused (.edUnlisted op)) ∧
    (s.cfg.edUnlisted = .silicon → ∃ t, exec (.edUnlisted op) s = .next t ∧
      if op ∈ [0x54, 0x5C, 0x64, 0x6C, 0x74, 0x7C] then exec .neg s = .next t
      else if op ∈ [0x55, 0x5D, 0x65, 0x6D, 0x75, 0x7D] then exec .retn s = .next t
      else if op = 0x66 ∨ op = 0x6E then exec .im0 s = .next t
      else if op = 0x76 then exec .im1 s = .next t
      else if op = 0x7E then exec .im2 s = .next t
      else t = s)

/-- With `IDX_UNLISTED = silicon`, DD or FD before an opcode that names neither H nor L runs it as on the MAIN page; before
one that does, with the halves of IX or IY in their place, and HL untouched. -/
def Obligations.UnlistedIndexOpcodesOnSilicon : Prop :=
  ∀ (s : State) (op n1 n2 : Byte), s.cfg.idxUnlisted = .silicon → idxUnlistedWf op n1 n2 = true →
    ∀ i, i = (decodeMain op n1 n2).1 →
      if namesHL i = false then
        ∃ t, exec (.ixUnlisted op n1 n2) s = .next t ∧ exec (.iyUnlisted op n1 n2) s = .next t ∧ exec i s = .next t
      else
        (∃ t u, exec (.ixUnlisted op n1 n2) s = .next t ∧ exec i { s with
            main := { s.main with h := hi s.ix, l := lo s.ix }, ix := pair s.main.h s.main.l } = .next u ∧
          t = { u with main := { u.main with h := s.main.h, l := s.main.l }, ix := pair u.main.h u.main.l }) ∧
        (∃ t u, exec (.iyUnlisted op n1 n2) s = .next t ∧ exec i { s with
            main := { s.main with h := hi s.iy, l := lo s.iy }, iy := pair s.main.h s.main.l } = .next u ∧
          t = { u with main := { u.main with h := s.main.h, l := s.main.l }, iy := pair u.main.h u.main.l })

/-! ### Interrupts, halt and reset -/

/-- A non-maskable interrupt is taken whatever IFF1 says: pc is pushed and nothing else is saved, IFF1 goes down, IFF2 and
every register stay, and pc is 0066. -/
def Obligations.NonMaskableInterruptEntry : Prop :=
  ∀ s : State, s.mem.wf = true → s.boundary.reset = false → (s.boundary.nmi = true ∨ s.nmiPending = true) →
    ∃ t, step s = .next t ∧ RCounts s.r t.r 1 ∧ StoresWord s t (s.sp - 2) s.pc ∧
      t = { s with
        inputs := s.inputs.tail, nmiPending := false, halted := false, eiPending := false, r := t.r, iff1 := false
        mem := t.mem, sp := s.sp - 2, pc := 0x0066 }

/-- RETN in the handler of a non-maskable interrupt goes back: pc, SP and every register are as they were, and IFF1 is what
IFF2 kept. -/
def Obligations.RetnReturnsFromANonMaskableInterrupt : Prop :=
  ∀ s : State, s.mem.wf = true → s.boundary.reset = false → (s.boundary.nmi = true ∨ s.nmiPending = true) →
    ∃ t u, step s = .next t ∧ exec .retn t = .next u ∧
      u = { s with
        inputs := s.inputs.tail, nmiPending := false, halted := false, eiPending := false, r := u.r, iff1 := s.iff2
        mem := u.mem }

/-- A maskable interrupt is accepted under R612's conditions. In mode 1 pc is 0038; in mode 2 it is read from the table at
I and the bus byte, after the push; in mode 0 it is the target of the RST the bus byte is, and any other byte is refused. -/
def Obligations.MaskableInterruptEntryByMode : Prop :=
  ∀ (s : State) (b : Byte), s.mem.wf = true → s.boundary.reset = false → s.boundary.nmi = false →
    s.nmiPending = false → s.boundary.int = true → s.iff1 = true → s.eiPending = false → b = s.boundary.busByte →
    (s.im = .im0 ∧ (b.toNat < 0xC0 ∨ b.toNat % 8 ≠ 7) ∧ step s = .refused (.im0NonRst b)) ∨
    ∃ t, step s = .next t ∧ RCounts s.r t.r 1 ∧ StoresWord s t (s.sp - 2) s.pc ∧
      t = { s with
        inputs := s.inputs.tail, halted := false, eiPending := false, r := t.r, iff1 := false, iff2 := false
        mem := t.mem, sp := s.sp - 2, pc := t.pc } ∧
      ((s.im = .im0 ∧ 0xC0 ≤ b.toNat ∧ b.toNat % 8 = 7 ∧ t.pc = BitVec.ofNat 16 (b.toNat - 0xC7)) ∨
       (s.im = .im1 ∧ t.pc = 0x0038) ∨
       (s.im = .im2 ∧ t.pc = pair (t.readByte (pair s.i b + 1)) (t.readByte (pair s.i b))))

/-- While IFF1 is 0, and for one instruction after EI, the level of INT makes no difference at all to a step. That inputs are
held in a list is the model's choice (log 8). -/
def Obligations.AMaskedRequestMakesNoDifference : Prop :=
  ∀ (s : State) (level : Bool) (later : List BoundaryInput), s.iff1 = false ∨ s.eiPending = true →
    ∀ b : BoundaryInput,
      step { s with inputs := b :: later } = step { s with inputs := { b with int := level } :: later }

/-- The instruction after EI runs before any maskable interrupt is taken: the step that runs EI leaves `ei_pending` up,
and with it up the next step runs an instruction unless a reset or a non-maskable interrupt comes. -/
def Obligations.TheInstructionAfterEiRunsFirst : Prop :=
  ∀ s : State, s.Undisturbed → s.readByte s.pc = 0xFB →
    ∃ t, step s = .next t ∧ t.pc = s.pc + 1 ∧ t.iff1 = true ∧ t.iff2 = true ∧
      (t.boundary.reset = false → t.boundary.nmi = false → t.Undisturbed)

/-- A halted step advances R by one and changes nothing else. -/
def Obligations.AHaltedStepOnlyCountsR : Prop :=
  ∀ s : State, s.halted = true → s.boundary.reset = false → s.boundary.nmi = false → s.nmiPending = false →
    ¬ (s.boundary.int = true ∧ s.iff1 = true ∧ s.eiPending = false) →
    ∃ t, step s = .next t ∧ t = { s with inputs := s.inputs.tail, r := t.r } ∧ RCounts s.r t.r 1

/-- A reset goes before any interrupt: it sets what R700 fixes, leaves memory and the record of port accesses alone, and
pushes nothing. What R700 leaves unspecified, and the free values it takes by the model's choice, are not spoken of (log 17). -/
def Obligations.AResetGoesBeforeAnyInterrupt : Prop :=
  ∀ s : State, s.boundary.reset = true →
    ∃ t, step s = .next t ∧ t.pc = 0x0000 ∧ t.iff1 = false ∧ t.iff2 = false ∧ t.im = .im0 ∧ t.i = 0x00 ∧
      t.r = 0x00 ∧ t.halted = false ∧ t.eiPending = false ∧ t.nmiPending = false ∧ t.mem = s.mem ∧ t.io = s.io ∧
      t.portIn = s.portIn ∧ t.inputs = s.inputs.tail ∧ t.cfg = s.cfg
end

