-- ==== Sys2Proof/Laws/Memory.lean ====
section
/-!
SUPPORT. The laws of memory: a read after a write, the canonical form kept by a write, and equal memories from equal reads.
-/
namespace Sys2Proof.Machine

theorem Memory.wfFrom_cons {low a : Nat} {v : Byte} {rest : Memory} :
    Memory.wfFrom low ((a, v) :: rest) = true ↔
      low ≤ a ∧ a < 65536 ∧ v ≠ unlistedByte ∧ Memory.wfFrom (a + 1) rest = true := by
  simp only [Memory.wfFrom, Bool.and_eq_true, decide_eq_true_eq, and_assoc]

/-- A canonical memory from `high` on is one from any lower address on. -/
theorem Memory.wfFrom_mono {low high : Nat} {m : Memory} (le : low ≤ high) (h : Memory.wfFrom high m = true) :
    Memory.wfFrom low m = true := by
  cases m with
  | nil => rfl
  | cons p rest =>
    obtain ⟨h1, h2⟩ := Memory.wfFrom_cons.mp h
    exact Memory.wfFrom_cons.mpr ⟨le.trans h1, h2⟩

/-- Below the lowest listed address every byte is unlisted. -/
theorem Memory.read_below {low k : Nat} {m : Memory} (h : Memory.wfFrom low m = true) (lt : k < low) :
    m.read k = unlistedByte := by
  induction m generalizing low with
  | nil => rfl
  | cons p rest ih =>
    obtain ⟨h1, -, -, h4⟩ := Memory.wfFrom_cons.mp h
    rw [Memory.read, if_neg (by omega)]
    exact ih h4 (by omega)

/-- A write keeps the canonical form. -/
theorem Memory.wfFrom_write {low k : Nat} {v : Byte} {m : Memory} (h : Memory.wfFrom low m = true) (ge : low ≤ k)
    (lt : k < 65536) : Memory.wfFrom low (m.write k v) = true := by
  induction m generalizing low with
  | nil =>
    unfold Memory.write
    split
    · rfl
    · next hv => exact Memory.wfFrom_cons.mpr ⟨ge, lt, hv, rfl⟩
  | cons p rest ih =>
    obtain ⟨a, w⟩ := p
    obtain ⟨h1, h2, h3, h4⟩ := Memory.wfFrom_cons.mp h
    unfold Memory.write
    split
    · split
      · exact h
      · next hk hv =>
        exact Memory.wfFrom_cons.mpr ⟨ge, lt, hv, Memory.wfFrom_cons.mpr ⟨hk, h2, h3, h4⟩⟩
    · split
      · split
        · exact Memory.wfFrom_mono (by omega) h4
        · next hk hv => exact Memory.wfFrom_cons.mpr ⟨ge, lt, hv, by subst hk; exact h4⟩
      · exact Memory.wfFrom_cons.mpr ⟨h1, h2, h3, ih h4 (by omega)⟩

/-- A write keeps the canonical form of the whole memory. -/
theorem Memory.wf_write {k : Nat} {v : Byte} {m : Memory} (h : m.wf = true) (lt : k < 65536) :
    (m.write k v).wf = true :=
  Memory.wfFrom_write h (Nat.zero_le k) lt

theorem Memory.read_writeFrom {low k j : Nat} {v : Byte} {m : Memory} (h : Memory.wfFrom low m = true) :
    (m.write k v).read j = if j = k then v else m.read j := by
  induction m generalizing low with
  | nil =>
    unfold Memory.write
    split
    · next hv => subst hv; simp [Memory.read]
    · simp only [Memory.read]
      by_cases hj : j = k
      · simp [hj]
      · rw [if_neg (fun e => hj e.symm), if_neg hj]
  | cons p rest ih =>
    obtain ⟨a, w⟩ := p
    obtain ⟨h1, h2, h3, h4⟩ := Memory.wfFrom_cons.mp h
    unfold Memory.write
    split
    · next hk =>
      split
      · next hv =>
        by_cases hj : j = k
        · rw [if_pos hj, hj, hv, Memory.read, if_neg (by omega)]
          exact Memory.read_below h4 (by omega)
        · rw [if_neg hj]
      · rw [Memory.read]
        by_cases hj : j = k
        · rw [if_pos hj.symm, if_pos hj]
        · rw [if_neg (fun e => hj e.symm), if_neg hj]
    · split
      · next hk =>
        subst hk
        split
        · next hv =>
          by_cases hj : j = k
          · rw [if_pos hj, hj, hv]
            exact Memory.read_below h4 (by omega)
          · rw [if_neg hj, Memory.read, if_neg (fun e => hj e.symm)]
        · by_cases hj : j = k
          · simp [Memory.read, hj]
          · simp [Memory.read, hj, show ¬ k = j from fun e => hj e.symm]
      · next hk =>
        simp only [Memory.read, ih h4]
        by_cases ha : a = j
        · simp [ha, show ¬ j = k from fun e => by omega]
        · simp [ha]

/-- A read after a write gives the byte written there, and what stood there elsewhere. -/
theorem Memory.read_write {k j : Nat} {v : Byte} {m : Memory} (h : m.wf = true) :
    (m.write k v).read j = if j = k then v else m.read j :=
  Memory.read_writeFrom h

theorem Memory.extFrom {low : Nat} {m n : Memory} (hm : Memory.wfFrom low m = true) (hn : Memory.wfFrom low n = true)
    (h : ∀ k, m.read k = n.read k) : m = n := by
  induction m generalizing low n with
  | nil =>
    cases n with
    | nil => rfl
    | cons q rest =>
      obtain ⟨b, w⟩ := q
      obtain ⟨-, -, hw, -⟩ := Memory.wfFrom_cons.mp hn
      have := h b
      simp only [Memory.read, if_true] at this
      exact absurd this.symm hw
  | cons p rest ih =>
    obtain ⟨a, v⟩ := p
    obtain ⟨h1, -, hv, h4⟩ := Memory.wfFrom_cons.mp hm
    cases n with
    | nil =>
      have := h a
      simp only [Memory.read, if_true] at this
      exact absurd this hv
    | cons q rest' =>
      obtain ⟨b, w⟩ := q
      obtain ⟨g1, -, hw, g4⟩ := Memory.wfFrom_cons.mp hn
      have eqab : a = b := by
        rcases Nat.lt_trichotomy a b with lt | e | gt
        · have := h a
          simp only [Memory.read, if_true, show ¬ b = a by omega, if_false] at this
          rw [Memory.read_below g4 (by omega)] at this
          exact absurd this hv
        · exact e
        · have := h b
          simp only [Memory.read, if_true, show ¬ a = b by omega, if_false] at this
          rw [Memory.read_below h4 (by omega)] at this
          exact absurd this.symm hw
      subst eqab
      have hvw : v = w := by simpa [Memory.read] using h a
      subst hvw
      have : rest = rest' := by
        refine ih h4 g4 fun k => ?_
        by_cases hk : a = k
        · subst hk
          rw [Memory.read_below h4 (by omega), Memory.read_below g4 (by omega)]
        · simpa [Memory.read, hk] using h k
      rw [this]

/-- Memories in canonical form that read the same are the same. -/
theorem Memory.ext_of_read {m n : Memory} (hm : m.wf = true) (hn : n.wf = true) (h : ∀ k, m.read k = n.read k) :
    m = n :=
  Memory.extFrom hm hn h

end Sys2Proof.Machine
end

