-- ==== Sys2Proof/Laws/State.lean ====
section
/-!
SUPPORT. What each one-field update of State and each update of a register set leaves in every field: true by rfl, so that
no proof unfolds a record update.
-/
namespace Sys2Proof.Machine

@[simp] theorem State.setMain_main (s : State) (v : Bank) : (s.setMain v).main = v := rfl
@[simp] theorem State.setMain_alt (s : State) (v : Bank) : (s.setMain v).alt = s.alt := rfl
@[simp] theorem State.setMain_ix (s : State) (v : Bank) : (s.setMain v).ix = s.ix := rfl
@[simp] theorem State.setMain_iy (s : State) (v : Bank) : (s.setMain v).iy = s.iy := rfl
@[simp] theorem State.setMain_sp (s : State) (v : Bank) : (s.setMain v).sp = s.sp := rfl
@[simp] theorem State.setMain_pc (s : State) (v : Bank) : (s.setMain v).pc = s.pc := rfl
@[simp] theorem State.setMain_i (s : State) (v : Bank) : (s.setMain v).i = s.i := rfl
@[simp] theorem State.setMain_r (s : State) (v : Bank) : (s.setMain v).r = s.r := rfl
@[simp] theorem State.setMain_iff1 (s : State) (v : Bank) : (s.setMain v).iff1 = s.iff1 := rfl
@[simp] theorem State.setMain_iff2 (s : State) (v : Bank) : (s.setMain v).iff2 = s.iff2 := rfl
@[simp] theorem State.setMain_im (s : State) (v : Bank) : (s.setMain v).im = s.im := rfl
@[simp] theorem State.setMain_halted (s : State) (v : Bank) : (s.setMain v).halted = s.halted := rfl
@[simp] theorem State.setMain_eiPending (s : State) (v : Bank) : (s.setMain v).eiPending = s.eiPending := rfl
@[simp] theorem State.setMain_nmiPending (s : State) (v : Bank) : (s.setMain v).nmiPending = s.nmiPending := rfl
@[simp] theorem State.setMain_mem (s : State) (v : Bank) : (s.setMain v).mem = s.mem := rfl
@[simp] theorem State.setMain_io (s : State) (v : Bank) : (s.setMain v).io = s.io := rfl
@[simp] theorem State.setMain_portIn (s : State) (v : Bank) : (s.setMain v).portIn = s.portIn := rfl
@[simp] theorem State.setMain_inputs (s : State) (v : Bank) : (s.setMain v).inputs = s.inputs := rfl
@[simp] theorem State.setMain_draws (s : State) (v : Bank) : (s.setMain v).draws = s.draws := rfl
@[simp] theorem State.setMain_cfg (s : State) (v : Bank) : (s.setMain v).cfg = s.cfg := rfl

@[simp] theorem State.setAlt_main (s : State) (v : Bank) : (s.setAlt v).main = s.main := rfl
@[simp] theorem State.setAlt_alt (s : State) (v : Bank) : (s.setAlt v).alt = v := rfl
@[simp] theorem State.setAlt_ix (s : State) (v : Bank) : (s.setAlt v).ix = s.ix := rfl
@[simp] theorem State.setAlt_iy (s : State) (v : Bank) : (s.setAlt v).iy = s.iy := rfl
@[simp] theorem State.setAlt_sp (s : State) (v : Bank) : (s.setAlt v).sp = s.sp := rfl
@[simp] theorem State.setAlt_pc (s : State) (v : Bank) : (s.setAlt v).pc = s.pc := rfl
@[simp] theorem State.setAlt_i (s : State) (v : Bank) : (s.setAlt v).i = s.i := rfl
@[simp] theorem State.setAlt_r (s : State) (v : Bank) : (s.setAlt v).r = s.r := rfl
@[simp] theorem State.setAlt_iff1 (s : State) (v : Bank) : (s.setAlt v).iff1 = s.iff1 := rfl
@[simp] theorem State.setAlt_iff2 (s : State) (v : Bank) : (s.setAlt v).iff2 = s.iff2 := rfl
@[simp] theorem State.setAlt_im (s : State) (v : Bank) : (s.setAlt v).im = s.im := rfl
@[simp] theorem State.setAlt_halted (s : State) (v : Bank) : (s.setAlt v).halted = s.halted := rfl
@[simp] theorem State.setAlt_eiPending (s : State) (v : Bank) : (s.setAlt v).eiPending = s.eiPending := rfl
@[simp] theorem State.setAlt_nmiPending (s : State) (v : Bank) : (s.setAlt v).nmiPending = s.nmiPending := rfl
@[simp] theorem State.setAlt_mem (s : State) (v : Bank) : (s.setAlt v).mem = s.mem := rfl
@[simp] theorem State.setAlt_io (s : State) (v : Bank) : (s.setAlt v).io = s.io := rfl
@[simp] theorem State.setAlt_portIn (s : State) (v : Bank) : (s.setAlt v).portIn = s.portIn := rfl
@[simp] theorem State.setAlt_inputs (s : State) (v : Bank) : (s.setAlt v).inputs = s.inputs := rfl
@[simp] theorem State.setAlt_draws (s : State) (v : Bank) : (s.setAlt v).draws = s.draws := rfl
@[simp] theorem State.setAlt_cfg (s : State) (v : Bank) : (s.setAlt v).cfg = s.cfg := rfl

@[simp] theorem State.setIx_main (s : State) (v : Word) : (s.setIx v).main = s.main := rfl
@[simp] theorem State.setIx_alt (s : State) (v : Word) : (s.setIx v).alt = s.alt := rfl
@[simp] theorem State.setIx_ix (s : State) (v : Word) : (s.setIx v).ix = v := rfl
@[simp] theorem State.setIx_iy (s : State) (v : Word) : (s.setIx v).iy = s.iy := rfl
@[simp] theorem State.setIx_sp (s : State) (v : Word) : (s.setIx v).sp = s.sp := rfl
@[simp] theorem State.setIx_pc (s : State) (v : Word) : (s.setIx v).pc = s.pc := rfl
@[simp] theorem State.setIx_i (s : State) (v : Word) : (s.setIx v).i = s.i := rfl
@[simp] theorem State.setIx_r (s : State) (v : Word) : (s.setIx v).r = s.r := rfl
@[simp] theorem State.setIx_iff1 (s : State) (v : Word) : (s.setIx v).iff1 = s.iff1 := rfl
@[simp] theorem State.setIx_iff2 (s : State) (v : Word) : (s.setIx v).iff2 = s.iff2 := rfl
@[simp] theorem State.setIx_im (s : State) (v : Word) : (s.setIx v).im = s.im := rfl
@[simp] theorem State.setIx_halted (s : State) (v : Word) : (s.setIx v).halted = s.halted := rfl
@[simp] theorem State.setIx_eiPending (s : State) (v : Word) : (s.setIx v).eiPending = s.eiPending := rfl
@[simp] theorem State.setIx_nmiPending (s : State) (v : Word) : (s.setIx v).nmiPending = s.nmiPending := rfl
@[simp] theorem State.setIx_mem (s : State) (v : Word) : (s.setIx v).mem = s.mem := rfl
@[simp] theorem State.setIx_io (s : State) (v : Word) : (s.setIx v).io = s.io := rfl
@[simp] theorem State.setIx_portIn (s : State) (v : Word) : (s.setIx v).portIn = s.portIn := rfl
@[simp] theorem State.setIx_inputs (s : State) (v : Word) : (s.setIx v).inputs = s.inputs := rfl
@[simp] theorem State.setIx_draws (s : State) (v : Word) : (s.setIx v).draws = s.draws := rfl
@[simp] theorem State.setIx_cfg (s : State) (v : Word) : (s.setIx v).cfg = s.cfg := rfl

@[simp] theorem State.setIy_main (s : State) (v : Word) : (s.setIy v).main = s.main := rfl
@[simp] theorem State.setIy_alt (s : State) (v : Word) : (s.setIy v).alt = s.alt := rfl
@[simp] theorem State.setIy_ix (s : State) (v : Word) : (s.setIy v).ix = s.ix := rfl
@[simp] theorem State.setIy_iy (s : State) (v : Word) : (s.setIy v).iy = v := rfl
@[simp] theorem State.setIy_sp (s : State) (v : Word) : (s.setIy v).sp = s.sp := rfl
@[simp] theorem State.setIy_pc (s : State) (v : Word) : (s.setIy v).pc = s.pc := rfl
@[simp] theorem State.setIy_i (s : State) (v : Word) : (s.setIy v).i = s.i := rfl
@[simp] theorem State.setIy_r (s : State) (v : Word) : (s.setIy v).r = s.r := rfl
@[simp] theorem State.setIy_iff1 (s : State) (v : Word) : (s.setIy v).iff1 = s.iff1 := rfl
@[simp] theorem State.setIy_iff2 (s : State) (v : Word) : (s.setIy v).iff2 = s.iff2 := rfl
@[simp] theorem State.setIy_im (s : State) (v : Word) : (s.setIy v).im = s.im := rfl
@[simp] theorem State.setIy_halted (s : State) (v : Word) : (s.setIy v).halted = s.halted := rfl
@[simp] theorem State.setIy_eiPending (s : State) (v : Word) : (s.setIy v).eiPending = s.eiPending := rfl
@[simp] theorem State.setIy_nmiPending (s : State) (v : Word) : (s.setIy v).nmiPending = s.nmiPending := rfl
@[simp] theorem State.setIy_mem (s : State) (v : Word) : (s.setIy v).mem = s.mem := rfl
@[simp] theorem State.setIy_io (s : State) (v : Word) : (s.setIy v).io = s.io := rfl
@[simp] theorem State.setIy_portIn (s : State) (v : Word) : (s.setIy v).portIn = s.portIn := rfl
@[simp] theorem State.setIy_inputs (s : State) (v : Word) : (s.setIy v).inputs = s.inputs := rfl
@[simp] theorem State.setIy_draws (s : State) (v : Word) : (s.setIy v).draws = s.draws := rfl
@[simp] theorem State.setIy_cfg (s : State) (v : Word) : (s.setIy v).cfg = s.cfg := rfl

@[simp] theorem State.setSp_main (s : State) (v : Word) : (s.setSp v).main = s.main := rfl
@[simp] theorem State.setSp_alt (s : State) (v : Word) : (s.setSp v).alt = s.alt := rfl
@[simp] theorem State.setSp_ix (s : State) (v : Word) : (s.setSp v).ix = s.ix := rfl
@[simp] theorem State.setSp_iy (s : State) (v : Word) : (s.setSp v).iy = s.iy := rfl
@[simp] theorem State.setSp_sp (s : State) (v : Word) : (s.setSp v).sp = v := rfl
@[simp] theorem State.setSp_pc (s : State) (v : Word) : (s.setSp v).pc = s.pc := rfl
@[simp] theorem State.setSp_i (s : State) (v : Word) : (s.setSp v).i = s.i := rfl
@[simp] theorem State.setSp_r (s : State) (v : Word) : (s.setSp v).r = s.r := rfl
@[simp] theorem State.setSp_iff1 (s : State) (v : Word) : (s.setSp v).iff1 = s.iff1 := rfl
@[simp] theorem State.setSp_iff2 (s : State) (v : Word) : (s.setSp v).iff2 = s.iff2 := rfl
@[simp] theorem State.setSp_im (s : State) (v : Word) : (s.setSp v).im = s.im := rfl
@[simp] theorem State.setSp_halted (s : State) (v : Word) : (s.setSp v).halted = s.halted := rfl
@[simp] theorem State.setSp_eiPending (s : State) (v : Word) : (s.setSp v).eiPending = s.eiPending := rfl
@[simp] theorem State.setSp_nmiPending (s : State) (v : Word) : (s.setSp v).nmiPending = s.nmiPending := rfl
@[simp] theorem State.setSp_mem (s : State) (v : Word) : (s.setSp v).mem = s.mem := rfl
@[simp] theorem State.setSp_io (s : State) (v : Word) : (s.setSp v).io = s.io := rfl
@[simp] theorem State.setSp_portIn (s : State) (v : Word) : (s.setSp v).portIn = s.portIn := rfl
@[simp] theorem State.setSp_inputs (s : State) (v : Word) : (s.setSp v).inputs = s.inputs := rfl
@[simp] theorem State.setSp_draws (s : State) (v : Word) : (s.setSp v).draws = s.draws := rfl
@[simp] theorem State.setSp_cfg (s : State) (v : Word) : (s.setSp v).cfg = s.cfg := rfl

@[simp] theorem State.setPc_main (s : State) (v : Word) : (s.setPc v).main = s.main := rfl
@[simp] theorem State.setPc_alt (s : State) (v : Word) : (s.setPc v).alt = s.alt := rfl
@[simp] theorem State.setPc_ix (s : State) (v : Word) : (s.setPc v).ix = s.ix := rfl
@[simp] theorem State.setPc_iy (s : State) (v : Word) : (s.setPc v).iy = s.iy := rfl
@[simp] theorem State.setPc_sp (s : State) (v : Word) : (s.setPc v).sp = s.sp := rfl
@[simp] theorem State.setPc_pc (s : State) (v : Word) : (s.setPc v).pc = v := rfl
@[simp] theorem State.setPc_i (s : State) (v : Word) : (s.setPc v).i = s.i := rfl
@[simp] theorem State.setPc_r (s : State) (v : Word) : (s.setPc v).r = s.r := rfl
@[simp] theorem State.setPc_iff1 (s : State) (v : Word) : (s.setPc v).iff1 = s.iff1 := rfl
@[simp] theorem State.setPc_iff2 (s : State) (v : Word) : (s.setPc v).iff2 = s.iff2 := rfl
@[simp] theorem State.setPc_im (s : State) (v : Word) : (s.setPc v).im = s.im := rfl
@[simp] theorem State.setPc_halted (s : State) (v : Word) : (s.setPc v).halted = s.halted := rfl
@[simp] theorem State.setPc_eiPending (s : State) (v : Word) : (s.setPc v).eiPending = s.eiPending := rfl
@[simp] theorem State.setPc_nmiPending (s : State) (v : Word) : (s.setPc v).nmiPending = s.nmiPending := rfl
@[simp] theorem State.setPc_mem (s : State) (v : Word) : (s.setPc v).mem = s.mem := rfl
@[simp] theorem State.setPc_io (s : State) (v : Word) : (s.setPc v).io = s.io := rfl
@[simp] theorem State.setPc_portIn (s : State) (v : Word) : (s.setPc v).portIn = s.portIn := rfl
@[simp] theorem State.setPc_inputs (s : State) (v : Word) : (s.setPc v).inputs = s.inputs := rfl
@[simp] theorem State.setPc_draws (s : State) (v : Word) : (s.setPc v).draws = s.draws := rfl
@[simp] theorem State.setPc_cfg (s : State) (v : Word) : (s.setPc v).cfg = s.cfg := rfl

@[simp] theorem State.setI_main (s : State) (v : Byte) : (s.setI v).main = s.main := rfl
@[simp] theorem State.setI_alt (s : State) (v : Byte) : (s.setI v).alt = s.alt := rfl
@[simp] theorem State.setI_ix (s : State) (v : Byte) : (s.setI v).ix = s.ix := rfl
@[simp] theorem State.setI_iy (s : State) (v : Byte) : (s.setI v).iy = s.iy := rfl
@[simp] theorem State.setI_sp (s : State) (v : Byte) : (s.setI v).sp = s.sp := rfl
@[simp] theorem State.setI_pc (s : State) (v : Byte) : (s.setI v).pc = s.pc := rfl
@[simp] theorem State.setI_i (s : State) (v : Byte) : (s.setI v).i = v := rfl
@[simp] theorem State.setI_r (s : State) (v : Byte) : (s.setI v).r = s.r := rfl
@[simp] theorem State.setI_iff1 (s : State) (v : Byte) : (s.setI v).iff1 = s.iff1 := rfl
@[simp] theorem State.setI_iff2 (s : State) (v : Byte) : (s.setI v).iff2 = s.iff2 := rfl
@[simp] theorem State.setI_im (s : State) (v : Byte) : (s.setI v).im = s.im := rfl
@[simp] theorem State.setI_halted (s : State) (v : Byte) : (s.setI v).halted = s.halted := rfl
@[simp] theorem State.setI_eiPending (s : State) (v : Byte) : (s.setI v).eiPending = s.eiPending := rfl
@[simp] theorem State.setI_nmiPending (s : State) (v : Byte) : (s.setI v).nmiPending = s.nmiPending := rfl
@[simp] theorem State.setI_mem (s : State) (v : Byte) : (s.setI v).mem = s.mem := rfl
@[simp] theorem State.setI_io (s : State) (v : Byte) : (s.setI v).io = s.io := rfl
@[simp] theorem State.setI_portIn (s : State) (v : Byte) : (s.setI v).portIn = s.portIn := rfl
@[simp] theorem State.setI_inputs (s : State) (v : Byte) : (s.setI v).inputs = s.inputs := rfl
@[simp] theorem State.setI_draws (s : State) (v : Byte) : (s.setI v).draws = s.draws := rfl
@[simp] theorem State.setI_cfg (s : State) (v : Byte) : (s.setI v).cfg = s.cfg := rfl

@[simp] theorem State.setR_main (s : State) (v : Byte) : (s.setR v).main = s.main := rfl
@[simp] theorem State.setR_alt (s : State) (v : Byte) : (s.setR v).alt = s.alt := rfl
@[simp] theorem State.setR_ix (s : State) (v : Byte) : (s.setR v).ix = s.ix := rfl
@[simp] theorem State.setR_iy (s : State) (v : Byte) : (s.setR v).iy = s.iy := rfl
@[simp] theorem State.setR_sp (s : State) (v : Byte) : (s.setR v).sp = s.sp := rfl
@[simp] theorem State.setR_pc (s : State) (v : Byte) : (s.setR v).pc = s.pc := rfl
@[simp] theorem State.setR_i (s : State) (v : Byte) : (s.setR v).i = s.i := rfl
@[simp] theorem State.setR_r (s : State) (v : Byte) : (s.setR v).r = v := rfl
@[simp] theorem State.setR_iff1 (s : State) (v : Byte) : (s.setR v).iff1 = s.iff1 := rfl
@[simp] theorem State.setR_iff2 (s : State) (v : Byte) : (s.setR v).iff2 = s.iff2 := rfl
@[simp] theorem State.setR_im (s : State) (v : Byte) : (s.setR v).im = s.im := rfl
@[simp] theorem State.setR_halted (s : State) (v : Byte) : (s.setR v).halted = s.halted := rfl
@[simp] theorem State.setR_eiPending (s : State) (v : Byte) : (s.setR v).eiPending = s.eiPending := rfl
@[simp] theorem State.setR_nmiPending (s : State) (v : Byte) : (s.setR v).nmiPending = s.nmiPending := rfl
@[simp] theorem State.setR_mem (s : State) (v : Byte) : (s.setR v).mem = s.mem := rfl
@[simp] theorem State.setR_io (s : State) (v : Byte) : (s.setR v).io = s.io := rfl
@[simp] theorem State.setR_portIn (s : State) (v : Byte) : (s.setR v).portIn = s.portIn := rfl
@[simp] theorem State.setR_inputs (s : State) (v : Byte) : (s.setR v).inputs = s.inputs := rfl
@[simp] theorem State.setR_draws (s : State) (v : Byte) : (s.setR v).draws = s.draws := rfl
@[simp] theorem State.setR_cfg (s : State) (v : Byte) : (s.setR v).cfg = s.cfg := rfl

@[simp] theorem State.setIff1_main (s : State) (v : Bool) : (s.setIff1 v).main = s.main := rfl
@[simp] theorem State.setIff1_alt (s : State) (v : Bool) : (s.setIff1 v).alt = s.alt := rfl
@[simp] theorem State.setIff1_ix (s : State) (v : Bool) : (s.setIff1 v).ix = s.ix := rfl
@[simp] theorem State.setIff1_iy (s : State) (v : Bool) : (s.setIff1 v).iy = s.iy := rfl
@[simp] theorem State.setIff1_sp (s : State) (v : Bool) : (s.setIff1 v).sp = s.sp := rfl
@[simp] theorem State.setIff1_pc (s : State) (v : Bool) : (s.setIff1 v).pc = s.pc := rfl
@[simp] theorem State.setIff1_i (s : State) (v : Bool) : (s.setIff1 v).i = s.i := rfl
@[simp] theorem State.setIff1_r (s : State) (v : Bool) : (s.setIff1 v).r = s.r := rfl
@[simp] theorem State.setIff1_iff1 (s : State) (v : Bool) : (s.setIff1 v).iff1 = v := rfl
@[simp] theorem State.setIff1_iff2 (s : State) (v : Bool) : (s.setIff1 v).iff2 = s.iff2 := rfl
@[simp] theorem State.setIff1_im (s : State) (v : Bool) : (s.setIff1 v).im = s.im := rfl
@[simp] theorem State.setIff1_halted (s : State) (v : Bool) : (s.setIff1 v).halted = s.halted := rfl
@[simp] theorem State.setIff1_eiPending (s : State) (v : Bool) : (s.setIff1 v).eiPending = s.eiPending := rfl
@[simp] theorem State.setIff1_nmiPending (s : State) (v : Bool) : (s.setIff1 v).nmiPending = s.nmiPending := rfl
@[simp] theorem State.setIff1_mem (s : State) (v : Bool) : (s.setIff1 v).mem = s.mem := rfl
@[simp] theorem State.setIff1_io (s : State) (v : Bool) : (s.setIff1 v).io = s.io := rfl
@[simp] theorem State.setIff1_portIn (s : State) (v : Bool) : (s.setIff1 v).portIn = s.portIn := rfl
@[simp] theorem State.setIff1_inputs (s : State) (v : Bool) : (s.setIff1 v).inputs = s.inputs := rfl
@[simp] theorem State.setIff1_draws (s : State) (v : Bool) : (s.setIff1 v).draws = s.draws := rfl
@[simp] theorem State.setIff1_cfg (s : State) (v : Bool) : (s.setIff1 v).cfg = s.cfg := rfl

@[simp] theorem State.setIff2_main (s : State) (v : Bool) : (s.setIff2 v).main = s.main := rfl
@[simp] theorem State.setIff2_alt (s : State) (v : Bool) : (s.setIff2 v).alt = s.alt := rfl
@[simp] theorem State.setIff2_ix (s : State) (v : Bool) : (s.setIff2 v).ix = s.ix := rfl
@[simp] theorem State.setIff2_iy (s : State) (v : Bool) : (s.setIff2 v).iy = s.iy := rfl
@[simp] theorem State.setIff2_sp (s : State) (v : Bool) : (s.setIff2 v).sp = s.sp := rfl
@[simp] theorem State.setIff2_pc (s : State) (v : Bool) : (s.setIff2 v).pc = s.pc := rfl
@[simp] theorem State.setIff2_i (s : State) (v : Bool) : (s.setIff2 v).i = s.i := rfl
@[simp] theorem State.setIff2_r (s : State) (v : Bool) : (s.setIff2 v).r = s.r := rfl
@[simp] theorem State.setIff2_iff1 (s : State) (v : Bool) : (s.setIff2 v).iff1 = s.iff1 := rfl
@[simp] theorem State.setIff2_iff2 (s : State) (v : Bool) : (s.setIff2 v).iff2 = v := rfl
@[simp] theorem State.setIff2_im (s : State) (v : Bool) : (s.setIff2 v).im = s.im := rfl
@[simp] theorem State.setIff2_halted (s : State) (v : Bool) : (s.setIff2 v).halted = s.halted := rfl
@[simp] theorem State.setIff2_eiPending (s : State) (v : Bool) : (s.setIff2 v).eiPending = s.eiPending := rfl
@[simp] theorem State.setIff2_nmiPending (s : State) (v : Bool) : (s.setIff2 v).nmiPending = s.nmiPending := rfl
@[simp] theorem State.setIff2_mem (s : State) (v : Bool) : (s.setIff2 v).mem = s.mem := rfl
@[simp] theorem State.setIff2_io (s : State) (v : Bool) : (s.setIff2 v).io = s.io := rfl
@[simp] theorem State.setIff2_portIn (s : State) (v : Bool) : (s.setIff2 v).portIn = s.portIn := rfl
@[simp] theorem State.setIff2_inputs (s : State) (v : Bool) : (s.setIff2 v).inputs = s.inputs := rfl
@[simp] theorem State.setIff2_draws (s : State) (v : Bool) : (s.setIff2 v).draws = s.draws := rfl
@[simp] theorem State.setIff2_cfg (s : State) (v : Bool) : (s.setIff2 v).cfg = s.cfg := rfl

@[simp] theorem State.setIm_main (s : State) (v : IMode) : (s.setIm v).main = s.main := rfl
@[simp] theorem State.setIm_alt (s : State) (v : IMode) : (s.setIm v).alt = s.alt := rfl
@[simp] theorem State.setIm_ix (s : State) (v : IMode) : (s.setIm v).ix = s.ix := rfl
@[simp] theorem State.setIm_iy (s : State) (v : IMode) : (s.setIm v).iy = s.iy := rfl
@[simp] theorem State.setIm_sp (s : State) (v : IMode) : (s.setIm v).sp = s.sp := rfl
@[simp] theorem State.setIm_pc (s : State) (v : IMode) : (s.setIm v).pc = s.pc := rfl
@[simp] theorem State.setIm_i (s : State) (v : IMode) : (s.setIm v).i = s.i := rfl
@[simp] theorem State.setIm_r (s : State) (v : IMode) : (s.setIm v).r = s.r := rfl
@[simp] theorem State.setIm_iff1 (s : State) (v : IMode) : (s.setIm v).iff1 = s.iff1 := rfl
@[simp] theorem State.setIm_iff2 (s : State) (v : IMode) : (s.setIm v).iff2 = s.iff2 := rfl
@[simp] theorem State.setIm_im (s : State) (v : IMode) : (s.setIm v).im = v := rfl
@[simp] theorem State.setIm_halted (s : State) (v : IMode) : (s.setIm v).halted = s.halted := rfl
@[simp] theorem State.setIm_eiPending (s : State) (v : IMode) : (s.setIm v).eiPending = s.eiPending := rfl
@[simp] theorem State.setIm_nmiPending (s : State) (v : IMode) : (s.setIm v).nmiPending = s.nmiPending := rfl
@[simp] theorem State.setIm_mem (s : State) (v : IMode) : (s.setIm v).mem = s.mem := rfl
@[simp] theorem State.setIm_io (s : State) (v : IMode) : (s.setIm v).io = s.io := rfl
@[simp] theorem State.setIm_portIn (s : State) (v : IMode) : (s.setIm v).portIn = s.portIn := rfl
@[simp] theorem State.setIm_inputs (s : State) (v : IMode) : (s.setIm v).inputs = s.inputs := rfl
@[simp] theorem State.setIm_draws (s : State) (v : IMode) : (s.setIm v).draws = s.draws := rfl
@[simp] theorem State.setIm_cfg (s : State) (v : IMode) : (s.setIm v).cfg = s.cfg := rfl

@[simp] theorem State.setHalted_main (s : State) (v : Bool) : (s.setHalted v).main = s.main := rfl
@[simp] theorem State.setHalted_alt (s : State) (v : Bool) : (s.setHalted v).alt = s.alt := rfl
@[simp] theorem State.setHalted_ix (s : State) (v : Bool) : (s.setHalted v).ix = s.ix := rfl
@[simp] theorem State.setHalted_iy (s : State) (v : Bool) : (s.setHalted v).iy = s.iy := rfl
@[simp] theorem State.setHalted_sp (s : State) (v : Bool) : (s.setHalted v).sp = s.sp := rfl
@[simp] theorem State.setHalted_pc (s : State) (v : Bool) : (s.setHalted v).pc = s.pc := rfl
@[simp] theorem State.setHalted_i (s : State) (v : Bool) : (s.setHalted v).i = s.i := rfl
@[simp] theorem State.setHalted_r (s : State) (v : Bool) : (s.setHalted v).r = s.r := rfl
@[simp] theorem State.setHalted_iff1 (s : State) (v : Bool) : (s.setHalted v).iff1 = s.iff1 := rfl
@[simp] theorem State.setHalted_iff2 (s : State) (v : Bool) : (s.setHalted v).iff2 = s.iff2 := rfl
@[simp] theorem State.setHalted_im (s : State) (v : Bool) : (s.setHalted v).im = s.im := rfl
@[simp] theorem State.setHalted_halted (s : State) (v : Bool) : (s.setHalted v).halted = v := rfl
@[simp] theorem State.setHalted_eiPending (s : State) (v : Bool) : (s.setHalted v).eiPending = s.eiPending := rfl
@[simp] theorem State.setHalted_nmiPending (s : State) (v : Bool) : (s.setHalted v).nmiPending = s.nmiPending := rfl
@[simp] theorem State.setHalted_mem (s : State) (v : Bool) : (s.setHalted v).mem = s.mem := rfl
@[simp] theorem State.setHalted_io (s : State) (v : Bool) : (s.setHalted v).io = s.io := rfl
@[simp] theorem State.setHalted_portIn (s : State) (v : Bool) : (s.setHalted v).portIn = s.portIn := rfl
@[simp] theorem State.setHalted_inputs (s : State) (v : Bool) : (s.setHalted v).inputs = s.inputs := rfl
@[simp] theorem State.setHalted_draws (s : State) (v : Bool) : (s.setHalted v).draws = s.draws := rfl
@[simp] theorem State.setHalted_cfg (s : State) (v : Bool) : (s.setHalted v).cfg = s.cfg := rfl

@[simp] theorem State.setEiPending_main (s : State) (v : Bool) : (s.setEiPending v).main = s.main := rfl
@[simp] theorem State.setEiPending_alt (s : State) (v : Bool) : (s.setEiPending v).alt = s.alt := rfl
@[simp] theorem State.setEiPending_ix (s : State) (v : Bool) : (s.setEiPending v).ix = s.ix := rfl
@[simp] theorem State.setEiPending_iy (s : State) (v : Bool) : (s.setEiPending v).iy = s.iy := rfl
@[simp] theorem State.setEiPending_sp (s : State) (v : Bool) : (s.setEiPending v).sp = s.sp := rfl
@[simp] theorem State.setEiPending_pc (s : State) (v : Bool) : (s.setEiPending v).pc = s.pc := rfl
@[simp] theorem State.setEiPending_i (s : State) (v : Bool) : (s.setEiPending v).i = s.i := rfl
@[simp] theorem State.setEiPending_r (s : State) (v : Bool) : (s.setEiPending v).r = s.r := rfl
@[simp] theorem State.setEiPending_iff1 (s : State) (v : Bool) : (s.setEiPending v).iff1 = s.iff1 := rfl
@[simp] theorem State.setEiPending_iff2 (s : State) (v : Bool) : (s.setEiPending v).iff2 = s.iff2 := rfl
@[simp] theorem State.setEiPending_im (s : State) (v : Bool) : (s.setEiPending v).im = s.im := rfl
@[simp] theorem State.setEiPending_halted (s : State) (v : Bool) : (s.setEiPending v).halted = s.halted := rfl
@[simp] theorem State.setEiPending_eiPending (s : State) (v : Bool) : (s.setEiPending v).eiPending = v := rfl
@[simp] theorem State.setEiPending_nmiPending (s : State) (v : Bool) : (s.setEiPending v).nmiPending = s.nmiPending := rfl
@[simp] theorem State.setEiPending_mem (s : State) (v : Bool) : (s.setEiPending v).mem = s.mem := rfl
@[simp] theorem State.setEiPending_io (s : State) (v : Bool) : (s.setEiPending v).io = s.io := rfl
@[simp] theorem State.setEiPending_portIn (s : State) (v : Bool) : (s.setEiPending v).portIn = s.portIn := rfl
@[simp] theorem State.setEiPending_inputs (s : State) (v : Bool) : (s.setEiPending v).inputs = s.inputs := rfl
@[simp] theorem State.setEiPending_draws (s : State) (v : Bool) : (s.setEiPending v).draws = s.draws := rfl
@[simp] theorem State.setEiPending_cfg (s : State) (v : Bool) : (s.setEiPending v).cfg = s.cfg := rfl

@[simp] theorem State.setNmiPending_main (s : State) (v : Bool) : (s.setNmiPending v).main = s.main := rfl
@[simp] theorem State.setNmiPending_alt (s : State) (v : Bool) : (s.setNmiPending v).alt = s.alt := rfl
@[simp] theorem State.setNmiPending_ix (s : State) (v : Bool) : (s.setNmiPending v).ix = s.ix := rfl
@[simp] theorem State.setNmiPending_iy (s : State) (v : Bool) : (s.setNmiPending v).iy = s.iy := rfl
@[simp] theorem State.setNmiPending_sp (s : State) (v : Bool) : (s.setNmiPending v).sp = s.sp := rfl
@[simp] theorem State.setNmiPending_pc (s : State) (v : Bool) : (s.setNmiPending v).pc = s.pc := rfl
@[simp] theorem State.setNmiPending_i (s : State) (v : Bool) : (s.setNmiPending v).i = s.i := rfl
@[simp] theorem State.setNmiPending_r (s : State) (v : Bool) : (s.setNmiPending v).r = s.r := rfl
@[simp] theorem State.setNmiPending_iff1 (s : State) (v : Bool) : (s.setNmiPending v).iff1 = s.iff1 := rfl
@[simp] theorem State.setNmiPending_iff2 (s : State) (v : Bool) : (s.setNmiPending v).iff2 = s.iff2 := rfl
@[simp] theorem State.setNmiPending_im (s : State) (v : Bool) : (s.setNmiPending v).im = s.im := rfl
@[simp] theorem State.setNmiPending_halted (s : State) (v : Bool) : (s.setNmiPending v).halted = s.halted := rfl
@[simp] theorem State.setNmiPending_eiPending (s : State) (v : Bool) : (s.setNmiPending v).eiPending = s.eiPending := rfl
@[simp] theorem State.setNmiPending_nmiPending (s : State) (v : Bool) : (s.setNmiPending v).nmiPending = v := rfl
@[simp] theorem State.setNmiPending_mem (s : State) (v : Bool) : (s.setNmiPending v).mem = s.mem := rfl
@[simp] theorem State.setNmiPending_io (s : State) (v : Bool) : (s.setNmiPending v).io = s.io := rfl
@[simp] theorem State.setNmiPending_portIn (s : State) (v : Bool) : (s.setNmiPending v).portIn = s.portIn := rfl
@[simp] theorem State.setNmiPending_inputs (s : State) (v : Bool) : (s.setNmiPending v).inputs = s.inputs := rfl
@[simp] theorem State.setNmiPending_draws (s : State) (v : Bool) : (s.setNmiPending v).draws = s.draws := rfl
@[simp] theorem State.setNmiPending_cfg (s : State) (v : Bool) : (s.setNmiPending v).cfg = s.cfg := rfl

@[simp] theorem State.setMem_main (s : State) (v : Memory) : (s.setMem v).main = s.main := rfl
@[simp] theorem State.setMem_alt (s : State) (v : Memory) : (s.setMem v).alt = s.alt := rfl
@[simp] theorem State.setMem_ix (s : State) (v : Memory) : (s.setMem v).ix = s.ix := rfl
@[simp] theorem State.setMem_iy (s : State) (v : Memory) : (s.setMem v).iy = s.iy := rfl
@[simp] theorem State.setMem_sp (s : State) (v : Memory) : (s.setMem v).sp = s.sp := rfl
@[simp] theorem State.setMem_pc (s : State) (v : Memory) : (s.setMem v).pc = s.pc := rfl
@[simp] theorem State.setMem_i (s : State) (v : Memory) : (s.setMem v).i = s.i := rfl
@[simp] theorem State.setMem_r (s : State) (v : Memory) : (s.setMem v).r = s.r := rfl
@[simp] theorem State.setMem_iff1 (s : State) (v : Memory) : (s.setMem v).iff1 = s.iff1 := rfl
@[simp] theorem State.setMem_iff2 (s : State) (v : Memory) : (s.setMem v).iff2 = s.iff2 := rfl
@[simp] theorem State.setMem_im (s : State) (v : Memory) : (s.setMem v).im = s.im := rfl
@[simp] theorem State.setMem_halted (s : State) (v : Memory) : (s.setMem v).halted = s.halted := rfl
@[simp] theorem State.setMem_eiPending (s : State) (v : Memory) : (s.setMem v).eiPending = s.eiPending := rfl
@[simp] theorem State.setMem_nmiPending (s : State) (v : Memory) : (s.setMem v).nmiPending = s.nmiPending := rfl
@[simp] theorem State.setMem_mem (s : State) (v : Memory) : (s.setMem v).mem = v := rfl
@[simp] theorem State.setMem_io (s : State) (v : Memory) : (s.setMem v).io = s.io := rfl
@[simp] theorem State.setMem_portIn (s : State) (v : Memory) : (s.setMem v).portIn = s.portIn := rfl
@[simp] theorem State.setMem_inputs (s : State) (v : Memory) : (s.setMem v).inputs = s.inputs := rfl
@[simp] theorem State.setMem_draws (s : State) (v : Memory) : (s.setMem v).draws = s.draws := rfl
@[simp] theorem State.setMem_cfg (s : State) (v : Memory) : (s.setMem v).cfg = s.cfg := rfl

@[simp] theorem State.setIo_main (s : State) (v : List IoEvent) : (s.setIo v).main = s.main := rfl
@[simp] theorem State.setIo_alt (s : State) (v : List IoEvent) : (s.setIo v).alt = s.alt := rfl
@[simp] theorem State.setIo_ix (s : State) (v : List IoEvent) : (s.setIo v).ix = s.ix := rfl
@[simp] theorem State.setIo_iy (s : State) (v : List IoEvent) : (s.setIo v).iy = s.iy := rfl
@[simp] theorem State.setIo_sp (s : State) (v : List IoEvent) : (s.setIo v).sp = s.sp := rfl
@[simp] theorem State.setIo_pc (s : State) (v : List IoEvent) : (s.setIo v).pc = s.pc := rfl
@[simp] theorem State.setIo_i (s : State) (v : List IoEvent) : (s.setIo v).i = s.i := rfl
@[simp] theorem State.setIo_r (s : State) (v : List IoEvent) : (s.setIo v).r = s.r := rfl
@[simp] theorem State.setIo_iff1 (s : State) (v : List IoEvent) : (s.setIo v).iff1 = s.iff1 := rfl
@[simp] theorem State.setIo_iff2 (s : State) (v : List IoEvent) : (s.setIo v).iff2 = s.iff2 := rfl
@[simp] theorem State.setIo_im (s : State) (v : List IoEvent) : (s.setIo v).im = s.im := rfl
@[simp] theorem State.setIo_halted (s : State) (v : List IoEvent) : (s.setIo v).halted = s.halted := rfl
@[simp] theorem State.setIo_eiPending (s : State) (v : List IoEvent) : (s.setIo v).eiPending = s.eiPending := rfl
@[simp] theorem State.setIo_nmiPending (s : State) (v : List IoEvent) : (s.setIo v).nmiPending = s.nmiPending := rfl
@[simp] theorem State.setIo_mem (s : State) (v : List IoEvent) : (s.setIo v).mem = s.mem := rfl
@[simp] theorem State.setIo_io (s : State) (v : List IoEvent) : (s.setIo v).io = v := rfl
@[simp] theorem State.setIo_portIn (s : State) (v : List IoEvent) : (s.setIo v).portIn = s.portIn := rfl
@[simp] theorem State.setIo_inputs (s : State) (v : List IoEvent) : (s.setIo v).inputs = s.inputs := rfl
@[simp] theorem State.setIo_draws (s : State) (v : List IoEvent) : (s.setIo v).draws = s.draws := rfl
@[simp] theorem State.setIo_cfg (s : State) (v : List IoEvent) : (s.setIo v).cfg = s.cfg := rfl

@[simp] theorem State.setPortIn_main (s : State) (v : List Byte) : (s.setPortIn v).main = s.main := rfl
@[simp] theorem State.setPortIn_alt (s : State) (v : List Byte) : (s.setPortIn v).alt = s.alt := rfl
@[simp] theorem State.setPortIn_ix (s : State) (v : List Byte) : (s.setPortIn v).ix = s.ix := rfl
@[simp] theorem State.setPortIn_iy (s : State) (v : List Byte) : (s.setPortIn v).iy = s.iy := rfl
@[simp] theorem State.setPortIn_sp (s : State) (v : List Byte) : (s.setPortIn v).sp = s.sp := rfl
@[simp] theorem State.setPortIn_pc (s : State) (v : List Byte) : (s.setPortIn v).pc = s.pc := rfl
@[simp] theorem State.setPortIn_i (s : State) (v : List Byte) : (s.setPortIn v).i = s.i := rfl
@[simp] theorem State.setPortIn_r (s : State) (v : List Byte) : (s.setPortIn v).r = s.r := rfl
@[simp] theorem State.setPortIn_iff1 (s : State) (v : List Byte) : (s.setPortIn v).iff1 = s.iff1 := rfl
@[simp] theorem State.setPortIn_iff2 (s : State) (v : List Byte) : (s.setPortIn v).iff2 = s.iff2 := rfl
@[simp] theorem State.setPortIn_im (s : State) (v : List Byte) : (s.setPortIn v).im = s.im := rfl
@[simp] theorem State.setPortIn_halted (s : State) (v : List Byte) : (s.setPortIn v).halted = s.halted := rfl
@[simp] theorem State.setPortIn_eiPending (s : State) (v : List Byte) : (s.setPortIn v).eiPending = s.eiPending := rfl
@[simp] theorem State.setPortIn_nmiPending (s : State) (v : List Byte) : (s.setPortIn v).nmiPending = s.nmiPending := rfl
@[simp] theorem State.setPortIn_mem (s : State) (v : List Byte) : (s.setPortIn v).mem = s.mem := rfl
@[simp] theorem State.setPortIn_io (s : State) (v : List Byte) : (s.setPortIn v).io = s.io := rfl
@[simp] theorem State.setPortIn_portIn (s : State) (v : List Byte) : (s.setPortIn v).portIn = v := rfl
@[simp] theorem State.setPortIn_inputs (s : State) (v : List Byte) : (s.setPortIn v).inputs = s.inputs := rfl
@[simp] theorem State.setPortIn_draws (s : State) (v : List Byte) : (s.setPortIn v).draws = s.draws := rfl
@[simp] theorem State.setPortIn_cfg (s : State) (v : List Byte) : (s.setPortIn v).cfg = s.cfg := rfl

@[simp] theorem State.setInputs_main (s : State) (v : List BoundaryInput) : (s.setInputs v).main = s.main := rfl
@[simp] theorem State.setInputs_alt (s : State) (v : List BoundaryInput) : (s.setInputs v).alt = s.alt := rfl
@[simp] theorem State.setInputs_ix (s : State) (v : List BoundaryInput) : (s.setInputs v).ix = s.ix := rfl
@[simp] theorem State.setInputs_iy (s : State) (v : List BoundaryInput) : (s.setInputs v).iy = s.iy := rfl
@[simp] theorem State.setInputs_sp (s : State) (v : List BoundaryInput) : (s.setInputs v).sp = s.sp := rfl
@[simp] theorem State.setInputs_pc (s : State) (v : List BoundaryInput) : (s.setInputs v).pc = s.pc := rfl
@[simp] theorem State.setInputs_i (s : State) (v : List BoundaryInput) : (s.setInputs v).i = s.i := rfl
@[simp] theorem State.setInputs_r (s : State) (v : List BoundaryInput) : (s.setInputs v).r = s.r := rfl
@[simp] theorem State.setInputs_iff1 (s : State) (v : List BoundaryInput) : (s.setInputs v).iff1 = s.iff1 := rfl
@[simp] theorem State.setInputs_iff2 (s : State) (v : List BoundaryInput) : (s.setInputs v).iff2 = s.iff2 := rfl
@[simp] theorem State.setInputs_im (s : State) (v : List BoundaryInput) : (s.setInputs v).im = s.im := rfl
@[simp] theorem State.setInputs_halted (s : State) (v : List BoundaryInput) : (s.setInputs v).halted = s.halted := rfl
@[simp] theorem State.setInputs_eiPending (s : State) (v : List BoundaryInput) : (s.setInputs v).eiPending = s.eiPending := rfl
@[simp] theorem State.setInputs_nmiPending (s : State) (v : List BoundaryInput) : (s.setInputs v).nmiPending = s.nmiPending := rfl
@[simp] theorem State.setInputs_mem (s : State) (v : List BoundaryInput) : (s.setInputs v).mem = s.mem := rfl
@[simp] theorem State.setInputs_io (s : State) (v : List BoundaryInput) : (s.setInputs v).io = s.io := rfl
@[simp] theorem State.setInputs_portIn (s : State) (v : List BoundaryInput) : (s.setInputs v).portIn = s.portIn := rfl
@[simp] theorem State.setInputs_inputs (s : State) (v : List BoundaryInput) : (s.setInputs v).inputs = v := rfl
@[simp] theorem State.setInputs_draws (s : State) (v : List BoundaryInput) : (s.setInputs v).draws = s.draws := rfl
@[simp] theorem State.setInputs_cfg (s : State) (v : List BoundaryInput) : (s.setInputs v).cfg = s.cfg := rfl

@[simp] theorem State.setDraws_main (s : State) (v : Nat) : (s.setDraws v).main = s.main := rfl
@[simp] theorem State.setDraws_alt (s : State) (v : Nat) : (s.setDraws v).alt = s.alt := rfl
@[simp] theorem State.setDraws_ix (s : State) (v : Nat) : (s.setDraws v).ix = s.ix := rfl
@[simp] theorem State.setDraws_iy (s : State) (v : Nat) : (s.setDraws v).iy = s.iy := rfl
@[simp] theorem State.setDraws_sp (s : State) (v : Nat) : (s.setDraws v).sp = s.sp := rfl
@[simp] theorem State.setDraws_pc (s : State) (v : Nat) : (s.setDraws v).pc = s.pc := rfl
@[simp] theorem State.setDraws_i (s : State) (v : Nat) : (s.setDraws v).i = s.i := rfl
@[simp] theorem State.setDraws_r (s : State) (v : Nat) : (s.setDraws v).r = s.r := rfl
@[simp] theorem State.setDraws_iff1 (s : State) (v : Nat) : (s.setDraws v).iff1 = s.iff1 := rfl
@[simp] theorem State.setDraws_iff2 (s : State) (v : Nat) : (s.setDraws v).iff2 = s.iff2 := rfl
@[simp] theorem State.setDraws_im (s : State) (v : Nat) : (s.setDraws v).im = s.im := rfl
@[simp] theorem State.setDraws_halted (s : State) (v : Nat) : (s.setDraws v).halted = s.halted := rfl
@[simp] theorem State.setDraws_eiPending (s : State) (v : Nat) : (s.setDraws v).eiPending = s.eiPending := rfl
@[simp] theorem State.setDraws_nmiPending (s : State) (v : Nat) : (s.setDraws v).nmiPending = s.nmiPending := rfl
@[simp] theorem State.setDraws_mem (s : State) (v : Nat) : (s.setDraws v).mem = s.mem := rfl
@[simp] theorem State.setDraws_io (s : State) (v : Nat) : (s.setDraws v).io = s.io := rfl
@[simp] theorem State.setDraws_portIn (s : State) (v : Nat) : (s.setDraws v).portIn = s.portIn := rfl
@[simp] theorem State.setDraws_inputs (s : State) (v : Nat) : (s.setDraws v).inputs = s.inputs := rfl
@[simp] theorem State.setDraws_draws (s : State) (v : Nat) : (s.setDraws v).draws = v := rfl
@[simp] theorem State.setDraws_cfg (s : State) (v : Nat) : (s.setDraws v).cfg = s.cfg := rfl

@[simp] theorem Bank.setA_a (b : Bank) (v : Byte) : (b.setA v).a = v := rfl
@[simp] theorem Bank.setA_f (b : Bank) (v : Byte) : (b.setA v).f = b.f := rfl
@[simp] theorem Bank.setA_b (b : Bank) (v : Byte) : (b.setA v).b = b.b := rfl
@[simp] theorem Bank.setA_c (b : Bank) (v : Byte) : (b.setA v).c = b.c := rfl
@[simp] theorem Bank.setA_d (b : Bank) (v : Byte) : (b.setA v).d = b.d := rfl
@[simp] theorem Bank.setA_e (b : Bank) (v : Byte) : (b.setA v).e = b.e := rfl
@[simp] theorem Bank.setA_h (b : Bank) (v : Byte) : (b.setA v).h = b.h := rfl
@[simp] theorem Bank.setA_l (b : Bank) (v : Byte) : (b.setA v).l = b.l := rfl

@[simp] theorem Bank.setF_a (b : Bank) (v : Flags) : (b.setF v).a = b.a := rfl
@[simp] theorem Bank.setF_f (b : Bank) (v : Flags) : (b.setF v).f = v := rfl
@[simp] theorem Bank.setF_b (b : Bank) (v : Flags) : (b.setF v).b = b.b := rfl
@[simp] theorem Bank.setF_c (b : Bank) (v : Flags) : (b.setF v).c = b.c := rfl
@[simp] theorem Bank.setF_d (b : Bank) (v : Flags) : (b.setF v).d = b.d := rfl
@[simp] theorem Bank.setF_e (b : Bank) (v : Flags) : (b.setF v).e = b.e := rfl
@[simp] theorem Bank.setF_h (b : Bank) (v : Flags) : (b.setF v).h = b.h := rfl
@[simp] theorem Bank.setF_l (b : Bank) (v : Flags) : (b.setF v).l = b.l := rfl

@[simp] theorem Bank.setB_a (b : Bank) (v : Byte) : (b.setB v).a = b.a := rfl
@[simp] theorem Bank.setB_f (b : Bank) (v : Byte) : (b.setB v).f = b.f := rfl
@[simp] theorem Bank.setB_b (b : Bank) (v : Byte) : (b.setB v).b = v := rfl
@[simp] theorem Bank.setB_c (b : Bank) (v : Byte) : (b.setB v).c = b.c := rfl
@[simp] theorem Bank.setB_d (b : Bank) (v : Byte) : (b.setB v).d = b.d := rfl
@[simp] theorem Bank.setB_e (b : Bank) (v : Byte) : (b.setB v).e = b.e := rfl
@[simp] theorem Bank.setB_h (b : Bank) (v : Byte) : (b.setB v).h = b.h := rfl
@[simp] theorem Bank.setB_l (b : Bank) (v : Byte) : (b.setB v).l = b.l := rfl

@[simp] theorem Bank.setBc_a (b : Bank) (v : Word) : (b.setBc v).a = b.a := rfl
@[simp] theorem Bank.setBc_f (b : Bank) (v : Word) : (b.setBc v).f = b.f := rfl
@[simp] theorem Bank.setBc_b (b : Bank) (v : Word) : (b.setBc v).b = hi v := rfl
@[simp] theorem Bank.setBc_c (b : Bank) (v : Word) : (b.setBc v).c = lo v := rfl
@[simp] theorem Bank.setBc_d (b : Bank) (v : Word) : (b.setBc v).d = b.d := rfl
@[simp] theorem Bank.setBc_e (b : Bank) (v : Word) : (b.setBc v).e = b.e := rfl
@[simp] theorem Bank.setBc_h (b : Bank) (v : Word) : (b.setBc v).h = b.h := rfl
@[simp] theorem Bank.setBc_l (b : Bank) (v : Word) : (b.setBc v).l = b.l := rfl

@[simp] theorem Bank.setDe_a (b : Bank) (v : Word) : (b.setDe v).a = b.a := rfl
@[simp] theorem Bank.setDe_f (b : Bank) (v : Word) : (b.setDe v).f = b.f := rfl
@[simp] theorem Bank.setDe_b (b : Bank) (v : Word) : (b.setDe v).b = b.b := rfl
@[simp] theorem Bank.setDe_c (b : Bank) (v : Word) : (b.setDe v).c = b.c := rfl
@[simp] theorem Bank.setDe_d (b : Bank) (v : Word) : (b.setDe v).d = hi v := rfl
@[simp] theorem Bank.setDe_e (b : Bank) (v : Word) : (b.setDe v).e = lo v := rfl
@[simp] theorem Bank.setDe_h (b : Bank) (v : Word) : (b.setDe v).h = b.h := rfl
@[simp] theorem Bank.setDe_l (b : Bank) (v : Word) : (b.setDe v).l = b.l := rfl

@[simp] theorem Bank.setHl_a (b : Bank) (v : Word) : (b.setHl v).a = b.a := rfl
@[simp] theorem Bank.setHl_f (b : Bank) (v : Word) : (b.setHl v).f = b.f := rfl
@[simp] theorem Bank.setHl_b (b : Bank) (v : Word) : (b.setHl v).b = b.b := rfl
@[simp] theorem Bank.setHl_c (b : Bank) (v : Word) : (b.setHl v).c = b.c := rfl
@[simp] theorem Bank.setHl_d (b : Bank) (v : Word) : (b.setHl v).d = b.d := rfl
@[simp] theorem Bank.setHl_e (b : Bank) (v : Word) : (b.setHl v).e = b.e := rfl
@[simp] theorem Bank.setHl_h (b : Bank) (v : Word) : (b.setHl v).h = hi v := rfl
@[simp] theorem Bank.setHl_l (b : Bank) (v : Word) : (b.setHl v).l = lo v := rfl

@[simp] theorem State.setA_main (s : State) (v : Byte) : (s.setA v).main = s.main.setA v := rfl
@[simp] theorem State.setA_alt (s : State) (v : Byte) : (s.setA v).alt = s.alt := rfl
@[simp] theorem State.setA_ix (s : State) (v : Byte) : (s.setA v).ix = s.ix := rfl
@[simp] theorem State.setA_iy (s : State) (v : Byte) : (s.setA v).iy = s.iy := rfl
@[simp] theorem State.setA_sp (s : State) (v : Byte) : (s.setA v).sp = s.sp := rfl
@[simp] theorem State.setA_pc (s : State) (v : Byte) : (s.setA v).pc = s.pc := rfl
@[simp] theorem State.setA_i (s : State) (v : Byte) : (s.setA v).i = s.i := rfl
@[simp] theorem State.setA_r (s : State) (v : Byte) : (s.setA v).r = s.r := rfl
@[simp] theorem State.setA_iff1 (s : State) (v : Byte) : (s.setA v).iff1 = s.iff1 := rfl
@[simp] theorem State.setA_iff2 (s : State) (v : Byte) : (s.setA v).iff2 = s.iff2 := rfl
@[simp] theorem State.setA_im (s : State) (v : Byte) : (s.setA v).im = s.im := rfl
@[simp] theorem State.setA_halted (s : State) (v : Byte) : (s.setA v).halted = s.halted := rfl
@[simp] theorem State.setA_eiPending (s : State) (v : Byte) : (s.setA v).eiPending = s.eiPending := rfl
@[simp] theorem State.setA_nmiPending (s : State) (v : Byte) : (s.setA v).nmiPending = s.nmiPending := rfl
@[simp] theorem State.setA_mem (s : State) (v : Byte) : (s.setA v).mem = s.mem := rfl
@[simp] theorem State.setA_io (s : State) (v : Byte) : (s.setA v).io = s.io := rfl
@[simp] theorem State.setA_portIn (s : State) (v : Byte) : (s.setA v).portIn = s.portIn := rfl
@[simp] theorem State.setA_inputs (s : State) (v : Byte) : (s.setA v).inputs = s.inputs := rfl
@[simp] theorem State.setA_draws (s : State) (v : Byte) : (s.setA v).draws = s.draws := rfl
@[simp] theorem State.setA_cfg (s : State) (v : Byte) : (s.setA v).cfg = s.cfg := rfl

@[simp] theorem State.setF_main (s : State) (v : Flags) : (s.setF v).main = s.main.setF v := rfl
@[simp] theorem State.setF_alt (s : State) (v : Flags) : (s.setF v).alt = s.alt := rfl
@[simp] theorem State.setF_ix (s : State) (v : Flags) : (s.setF v).ix = s.ix := rfl
@[simp] theorem State.setF_iy (s : State) (v : Flags) : (s.setF v).iy = s.iy := rfl
@[simp] theorem State.setF_sp (s : State) (v : Flags) : (s.setF v).sp = s.sp := rfl
@[simp] theorem State.setF_pc (s : State) (v : Flags) : (s.setF v).pc = s.pc := rfl
@[simp] theorem State.setF_i (s : State) (v : Flags) : (s.setF v).i = s.i := rfl
@[simp] theorem State.setF_r (s : State) (v : Flags) : (s.setF v).r = s.r := rfl
@[simp] theorem State.setF_iff1 (s : State) (v : Flags) : (s.setF v).iff1 = s.iff1 := rfl
@[simp] theorem State.setF_iff2 (s : State) (v : Flags) : (s.setF v).iff2 = s.iff2 := rfl
@[simp] theorem State.setF_im (s : State) (v : Flags) : (s.setF v).im = s.im := rfl
@[simp] theorem State.setF_halted (s : State) (v : Flags) : (s.setF v).halted = s.halted := rfl
@[simp] theorem State.setF_eiPending (s : State) (v : Flags) : (s.setF v).eiPending = s.eiPending := rfl
@[simp] theorem State.setF_nmiPending (s : State) (v : Flags) : (s.setF v).nmiPending = s.nmiPending := rfl
@[simp] theorem State.setF_mem (s : State) (v : Flags) : (s.setF v).mem = s.mem := rfl
@[simp] theorem State.setF_io (s : State) (v : Flags) : (s.setF v).io = s.io := rfl
@[simp] theorem State.setF_portIn (s : State) (v : Flags) : (s.setF v).portIn = s.portIn := rfl
@[simp] theorem State.setF_inputs (s : State) (v : Flags) : (s.setF v).inputs = s.inputs := rfl
@[simp] theorem State.setF_draws (s : State) (v : Flags) : (s.setF v).draws = s.draws := rfl
@[simp] theorem State.setF_cfg (s : State) (v : Flags) : (s.setF v).cfg = s.cfg := rfl

@[simp] theorem State.setB_main (s : State) (v : Byte) : (s.setB v).main = s.main.setB v := rfl
@[simp] theorem State.setB_alt (s : State) (v : Byte) : (s.setB v).alt = s.alt := rfl
@[simp] theorem State.setB_ix (s : State) (v : Byte) : (s.setB v).ix = s.ix := rfl
@[simp] theorem State.setB_iy (s : State) (v : Byte) : (s.setB v).iy = s.iy := rfl
@[simp] theorem State.setB_sp (s : State) (v : Byte) : (s.setB v).sp = s.sp := rfl
@[simp] theorem State.setB_pc (s : State) (v : Byte) : (s.setB v).pc = s.pc := rfl
@[simp] theorem State.setB_i (s : State) (v : Byte) : (s.setB v).i = s.i := rfl
@[simp] theorem State.setB_r (s : State) (v : Byte) : (s.setB v).r = s.r := rfl
@[simp] theorem State.setB_iff1 (s : State) (v : Byte) : (s.setB v).iff1 = s.iff1 := rfl
@[simp] theorem State.setB_iff2 (s : State) (v : Byte) : (s.setB v).iff2 = s.iff2 := rfl
@[simp] theorem State.setB_im (s : State) (v : Byte) : (s.setB v).im = s.im := rfl
@[simp] theorem State.setB_halted (s : State) (v : Byte) : (s.setB v).halted = s.halted := rfl
@[simp] theorem State.setB_eiPending (s : State) (v : Byte) : (s.setB v).eiPending = s.eiPending := rfl
@[simp] theorem State.setB_nmiPending (s : State) (v : Byte) : (s.setB v).nmiPending = s.nmiPending := rfl
@[simp] theorem State.setB_mem (s : State) (v : Byte) : (s.setB v).mem = s.mem := rfl
@[simp] theorem State.setB_io (s : State) (v : Byte) : (s.setB v).io = s.io := rfl
@[simp] theorem State.setB_portIn (s : State) (v : Byte) : (s.setB v).portIn = s.portIn := rfl
@[simp] theorem State.setB_inputs (s : State) (v : Byte) : (s.setB v).inputs = s.inputs := rfl
@[simp] theorem State.setB_draws (s : State) (v : Byte) : (s.setB v).draws = s.draws := rfl
@[simp] theorem State.setB_cfg (s : State) (v : Byte) : (s.setB v).cfg = s.cfg := rfl

@[simp] theorem State.setBc_main (s : State) (v : Word) : (s.setBc v).main = s.main.setBc v := rfl
@[simp] theorem State.setBc_alt (s : State) (v : Word) : (s.setBc v).alt = s.alt := rfl
@[simp] theorem State.setBc_ix (s : State) (v : Word) : (s.setBc v).ix = s.ix := rfl
@[simp] theorem State.setBc_iy (s : State) (v : Word) : (s.setBc v).iy = s.iy := rfl
@[simp] theorem State.setBc_sp (s : State) (v : Word) : (s.setBc v).sp = s.sp := rfl
@[simp] theorem State.setBc_pc (s : State) (v : Word) : (s.setBc v).pc = s.pc := rfl
@[simp] theorem State.setBc_i (s : State) (v : Word) : (s.setBc v).i = s.i := rfl
@[simp] theorem State.setBc_r (s : State) (v : Word) : (s.setBc v).r = s.r := rfl
@[simp] theorem State.setBc_iff1 (s : State) (v : Word) : (s.setBc v).iff1 = s.iff1 := rfl
@[simp] theorem State.setBc_iff2 (s : State) (v : Word) : (s.setBc v).iff2 = s.iff2 := rfl
@[simp] theorem State.setBc_im (s : State) (v : Word) : (s.setBc v).im = s.im := rfl
@[simp] theorem State.setBc_halted (s : State) (v : Word) : (s.setBc v).halted = s.halted := rfl
@[simp] theorem State.setBc_eiPending (s : State) (v : Word) : (s.setBc v).eiPending = s.eiPending := rfl
@[simp] theorem State.setBc_nmiPending (s : State) (v : Word) : (s.setBc v).nmiPending = s.nmiPending := rfl
@[simp] theorem State.setBc_mem (s : State) (v : Word) : (s.setBc v).mem = s.mem := rfl
@[simp] theorem State.setBc_io (s : State) (v : Word) : (s.setBc v).io = s.io := rfl
@[simp] theorem State.setBc_portIn (s : State) (v : Word) : (s.setBc v).portIn = s.portIn := rfl
@[simp] theorem State.setBc_inputs (s : State) (v : Word) : (s.setBc v).inputs = s.inputs := rfl
@[simp] theorem State.setBc_draws (s : State) (v : Word) : (s.setBc v).draws = s.draws := rfl
@[simp] theorem State.setBc_cfg (s : State) (v : Word) : (s.setBc v).cfg = s.cfg := rfl

@[simp] theorem State.setDe_main (s : State) (v : Word) : (s.setDe v).main = s.main.setDe v := rfl
@[simp] theorem State.setDe_alt (s : State) (v : Word) : (s.setDe v).alt = s.alt := rfl
@[simp] theorem State.setDe_ix (s : State) (v : Word) : (s.setDe v).ix = s.ix := rfl
@[simp] theorem State.setDe_iy (s : State) (v : Word) : (s.setDe v).iy = s.iy := rfl
@[simp] theorem State.setDe_sp (s : State) (v : Word) : (s.setDe v).sp = s.sp := rfl
@[simp] theorem State.setDe_pc (s : State) (v : Word) : (s.setDe v).pc = s.pc := rfl
@[simp] theorem State.setDe_i (s : State) (v : Word) : (s.setDe v).i = s.i := rfl
@[simp] theorem State.setDe_r (s : State) (v : Word) : (s.setDe v).r = s.r := rfl
@[simp] theorem State.setDe_iff1 (s : State) (v : Word) : (s.setDe v).iff1 = s.iff1 := rfl
@[simp] theorem State.setDe_iff2 (s : State) (v : Word) : (s.setDe v).iff2 = s.iff2 := rfl
@[simp] theorem State.setDe_im (s : State) (v : Word) : (s.setDe v).im = s.im := rfl
@[simp] theorem State.setDe_halted (s : State) (v : Word) : (s.setDe v).halted = s.halted := rfl
@[simp] theorem State.setDe_eiPending (s : State) (v : Word) : (s.setDe v).eiPending = s.eiPending := rfl
@[simp] theorem State.setDe_nmiPending (s : State) (v : Word) : (s.setDe v).nmiPending = s.nmiPending := rfl
@[simp] theorem State.setDe_mem (s : State) (v : Word) : (s.setDe v).mem = s.mem := rfl
@[simp] theorem State.setDe_io (s : State) (v : Word) : (s.setDe v).io = s.io := rfl
@[simp] theorem State.setDe_portIn (s : State) (v : Word) : (s.setDe v).portIn = s.portIn := rfl
@[simp] theorem State.setDe_inputs (s : State) (v : Word) : (s.setDe v).inputs = s.inputs := rfl
@[simp] theorem State.setDe_draws (s : State) (v : Word) : (s.setDe v).draws = s.draws := rfl
@[simp] theorem State.setDe_cfg (s : State) (v : Word) : (s.setDe v).cfg = s.cfg := rfl

@[simp] theorem State.setHl_main (s : State) (v : Word) : (s.setHl v).main = s.main.setHl v := rfl
@[simp] theorem State.setHl_alt (s : State) (v : Word) : (s.setHl v).alt = s.alt := rfl
@[simp] theorem State.setHl_ix (s : State) (v : Word) : (s.setHl v).ix = s.ix := rfl
@[simp] theorem State.setHl_iy (s : State) (v : Word) : (s.setHl v).iy = s.iy := rfl
@[simp] theorem State.setHl_sp (s : State) (v : Word) : (s.setHl v).sp = s.sp := rfl
@[simp] theorem State.setHl_pc (s : State) (v : Word) : (s.setHl v).pc = s.pc := rfl
@[simp] theorem State.setHl_i (s : State) (v : Word) : (s.setHl v).i = s.i := rfl
@[simp] theorem State.setHl_r (s : State) (v : Word) : (s.setHl v).r = s.r := rfl
@[simp] theorem State.setHl_iff1 (s : State) (v : Word) : (s.setHl v).iff1 = s.iff1 := rfl
@[simp] theorem State.setHl_iff2 (s : State) (v : Word) : (s.setHl v).iff2 = s.iff2 := rfl
@[simp] theorem State.setHl_im (s : State) (v : Word) : (s.setHl v).im = s.im := rfl
@[simp] theorem State.setHl_halted (s : State) (v : Word) : (s.setHl v).halted = s.halted := rfl
@[simp] theorem State.setHl_eiPending (s : State) (v : Word) : (s.setHl v).eiPending = s.eiPending := rfl
@[simp] theorem State.setHl_nmiPending (s : State) (v : Word) : (s.setHl v).nmiPending = s.nmiPending := rfl
@[simp] theorem State.setHl_mem (s : State) (v : Word) : (s.setHl v).mem = s.mem := rfl
@[simp] theorem State.setHl_io (s : State) (v : Word) : (s.setHl v).io = s.io := rfl
@[simp] theorem State.setHl_portIn (s : State) (v : Word) : (s.setHl v).portIn = s.portIn := rfl
@[simp] theorem State.setHl_inputs (s : State) (v : Word) : (s.setHl v).inputs = s.inputs := rfl
@[simp] theorem State.setHl_draws (s : State) (v : Word) : (s.setHl v).draws = s.draws := rfl
@[simp] theorem State.setHl_cfg (s : State) (v : Word) : (s.setHl v).cfg = s.cfg := rfl

@[simp] theorem State.setReg_main (s : State) (r : Reg8) (v : Byte) : (s.setReg r v).main = s.main.setReg r v := rfl
@[simp] theorem State.setReg_alt (s : State) (r : Reg8) (v : Byte) : (s.setReg r v).alt = s.alt := rfl
@[simp] theorem State.setReg_ix (s : State) (r : Reg8) (v : Byte) : (s.setReg r v).ix = s.ix := rfl
@[simp] theorem State.setReg_iy (s : State) (r : Reg8) (v : Byte) : (s.setReg r v).iy = s.iy := rfl
@[simp] theorem State.setReg_sp (s : State) (r : Reg8) (v : Byte) : (s.setReg r v).sp = s.sp := rfl
@[simp] theorem State.setReg_pc (s : State) (r : Reg8) (v : Byte) : (s.setReg r v).pc = s.pc := rfl
@[simp] theorem State.setReg_i (s : State) (r : Reg8) (v : Byte) : (s.setReg r v).i = s.i := rfl
@[simp] theorem State.setReg_r (s : State) (r : Reg8) (v : Byte) : (s.setReg r v).r = s.r := rfl
@[simp] theorem State.setReg_iff1 (s : State) (r : Reg8) (v : Byte) : (s.setReg r v).iff1 = s.iff1 := rfl
@[simp] theorem State.setReg_iff2 (s : State) (r : Reg8) (v : Byte) : (s.setReg r v).iff2 = s.iff2 := rfl
@[simp] theorem State.setReg_im (s : State) (r : Reg8) (v : Byte) : (s.setReg r v).im = s.im := rfl
@[simp] theorem State.setReg_halted (s : State) (r : Reg8) (v : Byte) : (s.setReg r v).halted = s.halted := rfl
@[simp] theorem State.setReg_eiPending (s : State) (r : Reg8) (v : Byte) : (s.setReg r v).eiPending = s.eiPending := rfl
@[simp] theorem State.setReg_nmiPending (s : State) (r : Reg8) (v : Byte) : (s.setReg r v).nmiPending = s.nmiPending := rfl
@[simp] theorem State.setReg_mem (s : State) (r : Reg8) (v : Byte) : (s.setReg r v).mem = s.mem := rfl
@[simp] theorem State.setReg_io (s : State) (r : Reg8) (v : Byte) : (s.setReg r v).io = s.io := rfl
@[simp] theorem State.setReg_portIn (s : State) (r : Reg8) (v : Byte) : (s.setReg r v).portIn = s.portIn := rfl
@[simp] theorem State.setReg_inputs (s : State) (r : Reg8) (v : Byte) : (s.setReg r v).inputs = s.inputs := rfl
@[simp] theorem State.setReg_draws (s : State) (r : Reg8) (v : Byte) : (s.setReg r v).draws = s.draws := rfl
@[simp] theorem State.setReg_cfg (s : State) (r : Reg8) (v : Byte) : (s.setReg r v).cfg = s.cfg := rfl

@[simp] theorem State.writeByte_main (s : State) (a : Word) (v : Byte) : (s.writeByte a v).main = s.main := rfl
@[simp] theorem State.writeByte_alt (s : State) (a : Word) (v : Byte) : (s.writeByte a v).alt = s.alt := rfl
@[simp] theorem State.writeByte_ix (s : State) (a : Word) (v : Byte) : (s.writeByte a v).ix = s.ix := rfl
@[simp] theorem State.writeByte_iy (s : State) (a : Word) (v : Byte) : (s.writeByte a v).iy = s.iy := rfl
@[simp] theorem State.writeByte_sp (s : State) (a : Word) (v : Byte) : (s.writeByte a v).sp = s.sp := rfl
@[simp] theorem State.writeByte_pc (s : State) (a : Word) (v : Byte) : (s.writeByte a v).pc = s.pc := rfl
@[simp] theorem State.writeByte_i (s : State) (a : Word) (v : Byte) : (s.writeByte a v).i = s.i := rfl
@[simp] theorem State.writeByte_r (s : State) (a : Word) (v : Byte) : (s.writeByte a v).r = s.r := rfl
@[simp] theorem State.writeByte_iff1 (s : State) (a : Word) (v : Byte) : (s.writeByte a v).iff1 = s.iff1 := rfl
@[simp] theorem State.writeByte_iff2 (s : State) (a : Word) (v : Byte) : (s.writeByte a v).iff2 = s.iff2 := rfl
@[simp] theorem State.writeByte_im (s : State) (a : Word) (v : Byte) : (s.writeByte a v).im = s.im := rfl
@[simp] theorem State.writeByte_halted (s : State) (a : Word) (v : Byte) : (s.writeByte a v).halted = s.halted := rfl
@[simp] theorem State.writeByte_eiPending (s : State) (a : Word) (v : Byte) : (s.writeByte a v).eiPending = s.eiPending := rfl
@[simp] theorem State.writeByte_nmiPending (s : State) (a : Word) (v : Byte) : (s.writeByte a v).nmiPending = s.nmiPending := rfl
@[simp] theorem State.writeByte_mem (s : State) (a : Word) (v : Byte) : (s.writeByte a v).mem = s.mem.write a.toNat v := rfl
@[simp] theorem State.writeByte_io (s : State) (a : Word) (v : Byte) : (s.writeByte a v).io = s.io := rfl
@[simp] theorem State.writeByte_portIn (s : State) (a : Word) (v : Byte) : (s.writeByte a v).portIn = s.portIn := rfl
@[simp] theorem State.writeByte_inputs (s : State) (a : Word) (v : Byte) : (s.writeByte a v).inputs = s.inputs := rfl
@[simp] theorem State.writeByte_draws (s : State) (a : Word) (v : Byte) : (s.writeByte a v).draws = s.draws := rfl
@[simp] theorem State.writeByte_cfg (s : State) (a : Word) (v : Byte) : (s.writeByte a v).cfg = s.cfg := rfl

end Sys2Proof.Machine
end

