-- ==== Sys2Proof/Laws/Ops.lean ====
section
/-!
SUPPORT. For each shared operation, once, everything it does: a record update of the state, or what it reads. Cite these
instead of unfolding the operation.
-/
namespace Sys2Proof

/-! ### Halves and pairs -/

@[simp] theorem hi_pair (h l : Byte) : hi (pair h l) = h := by
  apply BitVec.eq_of_getLsbD_eq
  intro i hi'
  simp only [hi, pair, BitVec.getLsbD_extractLsb', BitVec.getLsbD_append]
  simp [hi', show ¬ (8 + i < 8) by omega]

@[simp] theorem lo_pair (h l : Byte) : lo (pair h l) = l := by
  apply BitVec.eq_of_getLsbD_eq
  intro i hi'
  simp only [lo, pair, BitVec.getLsbD_extractLsb', BitVec.getLsbD_append]
  simp [hi']

@[simp] theorem pair_hi_lo (v : Word) : pair (hi v) (lo v) = v := by
  apply BitVec.eq_of_getLsbD_eq
  intro i hi'
  simp only [hi, lo, pair, BitVec.getLsbD_extractLsb', BitVec.getLsbD_append]
  by_cases h : i < 8
  · simp [h]
  · simp [h, show i - 8 < 8 by omega, show 8 + (i - 8) = i by omega]

@[simp] theorem imm16_lo_hi (v : Word) : imm16 (lo v) (hi v) = v := pair_hi_lo v

/-- A 16-bit value is its two halves. -/
theorem word_ext {v w : Word} (h : hi v = hi w) (l : lo v = lo w) : v = w := by
  rw [← pair_hi_lo v, ← pair_hi_lo w, h, l]

namespace Machine

/-! ### Registers -/

/-- What a register write leaves in each register. -/
theorem Bank.reg_setReg (b : Bank) (r q : Reg8) (v : Byte) : (b.setReg r v).reg q = if q = r then v else b.reg q := by
  cases r <;> cases q <;> rfl

@[simp] theorem Bank.setReg_f (b : Bank) (r : Reg8) (v : Byte) : (b.setReg r v).f = b.f := by cases r <;> rfl

@[simp] theorem Bank.setReg_reg (b : Bank) (r : Reg8) : b.setReg r (b.reg r) = b := by cases r <;> rfl

/-- Register sets with the same registers and flags are the same. -/
theorem Bank.ext_of_reg {b b' : Bank} (h : ∀ q, b.reg q = b'.reg q) (hf : b.f = b'.f) : b = b' := by
  have ha := h .a
  have hb := h .b
  have hc := h .c
  have hd := h .d
  have he := h .e
  have hh := h .h
  have hl := h .l
  cases b
  cases b'
  simp only [Bank.reg] at *
  simp_all

@[simp] theorem Bank.bc_setBc (b : Bank) (v : Word) : (b.setBc v).bc = v := pair_hi_lo v
@[simp] theorem Bank.de_setDe (b : Bank) (v : Word) : (b.setDe v).de = v := pair_hi_lo v
@[simp] theorem Bank.hl_setHl (b : Bank) (v : Word) : (b.setHl v).hl = v := pair_hi_lo v
@[simp] theorem Bank.setBc_bc (b : Bank) : b.setBc b.bc = b := by simp [Bank.setBc, Bank.bc]
@[simp] theorem Bank.setDe_de (b : Bank) : b.setDe b.de = b := by simp [Bank.setDe, Bank.de]
@[simp] theorem Bank.setHl_hl (b : Bank) : b.setHl b.hl = b := by simp [Bank.setHl, Bank.hl]

theorem State.setReg_eq (s : State) (r : Reg8) (v : Byte) : s.setReg r v = { s with main := s.main.setReg r v } := rfl

/-- A pair is written and read back; the other pairs stay. -/
theorem State.rp_setRp (s : State) (p q : Rp) (v : Word) : (s.setRp p v).rp q = if q = p then v else s.rp q := by
  cases p <;> cases q <;> simp [State.setRp, State.rp] <;> rfl

/-- Only the register set and SP can change by a write of a pair. -/
theorem State.setRp_eq (s : State) (p : Rp) (v : Word) :
    s.setRp p v = { s with main := (s.setRp p v).main, sp := (s.setRp p v).sp } := by
  cases p <;> rfl

theorem State.setRpPush_eq (s : State) (p : RpPush) (v : Word) :
    s.setRpPush p v = { s with main := (s.setRpPush p v).main } := by
  cases p <;> rfl

theorem State.setXy_eq (s : State) (x : IndexReg) (v : Word) :
    s.setXy x v = { s with ix := (s.setXy x v).ix, iy := (s.setXy x v).iy } := by
  cases x <;> rfl

/-- An index register is written and read back; the other stays. -/
theorem State.xy_setXy (s : State) (x y : IndexReg) (v : Word) : (s.setXy x v).xy y = if y = x then v else s.xy y := by
  cases x <;> cases y <;> rfl

/-! ### Memory -/

/-- Addresses are below 65536. -/
theorem addr_lt (a : Word) : a.toNat < 65536 := a.isLt

/-- A byte is written and read back; every other byte stays (R73, R74). -/
theorem State.readByte_writeByte {s : State} (h : s.mem.wf = true) (a b : Word) (v : Byte) :
    (s.writeByte a v).readByte b = if b = a then v else s.readByte b := by
  simp only [State.readByte, State.writeByte_mem, Memory.read_write h, BitVec.toNat_inj]

theorem State.wf_writeByte {s : State} (h : s.mem.wf = true) (a : Word) (v : Byte) :
    (s.writeByte a v).mem.wf = true :=
  Memory.wf_write h (addr_lt a)

theorem State.writeWord_eq (s : State) (a v : Word) :
    s.writeWord a v =
      { s with mem := (s.mem.write a.toNat (lo v)).write (a + 1).toNat (hi v) } := rfl

theorem State.wf_writeWord {s : State} (h : s.mem.wf = true) (a v : Word) : (s.writeWord a v).mem.wf = true :=
  State.wf_writeByte (State.wf_writeByte h a (lo v)) (a + 1) (hi v)

/-- An address is not its own successor. -/
theorem word_succ_ne (a : Word) : a + 1 ≠ a := by
  intro h
  have := congrArg (· - a) h
  simp at this

/-- The two bytes of a 16-bit store (R76); every other byte stays. -/
theorem State.readByte_writeWord {s : State} (h : s.mem.wf = true) (a v b : Word) :
    (s.writeWord a v).readByte b = if b = a then lo v else if b = a + 1 then hi v else s.readByte b := by
  rw [State.writeWord, State.readByte_writeByte (State.wf_writeByte h _ _), State.readByte_writeByte h]
  by_cases h1 : b = a
  · subst h1
    simp
  · simp [h1]

/-- A 16-bit store reads back (R75, R76). -/
theorem State.readWord_writeWord {s : State} (h : s.mem.wf = true) (a v : Word) : (s.writeWord a v).readWord a = v := by
  simp [State.readWord, State.readByte_writeWord h]

/-! ### The stack -/

theorem State.push_eq (s : State) (v : Word) :
    s.push v =
      { s with
        mem := (s.mem.write (s.sp - 1).toNat (hi v)).write (s.sp - 2).toNat (lo v)
        sp := s.sp - 2 } := rfl

theorem State.wf_push {s : State} (h : s.mem.wf = true) (v : Word) : (s.push v).mem.wf = true :=
  State.wf_writeByte (State.wf_writeByte h (s.sp - 1) (hi v)) (s.sp - 2) (lo v)

/-- The two bytes below the stack pointer are different ones. -/
theorem stack_bytes_ne (a : Word) : a - 1 ≠ a - 2 := by bv_omega

/-- The two bytes of a push (R77); every other byte stays. -/
theorem State.readByte_push {s : State} (h : s.mem.wf = true) (v b : Word) :
    (s.push v).readByte b = if b = s.sp - 2 then lo v else if b = s.sp - 1 then hi v else s.readByte b := by
  have := State.readByte_writeByte (s := s.writeByte (s.sp - 1) (hi v)) (State.wf_writeByte h _ _) (s.sp - 2) b (lo v)
  rw [State.readByte_writeByte h] at this
  exact this

theorem State.popPc_eq (s : State) : s.popPc = { s with pc := s.readWord s.sp, sp := s.sp + 2 } := rfl

theorem State.call_eq (s : State) (target : Word) :
    s.call target =
      { s with
        mem := (s.mem.write (s.sp - 1).toNat (hi s.pc)).write (s.sp - 2).toNat (lo s.pc)
        sp := s.sp - 2
        pc := target } := rfl

theorem State.exchangeTop_eq (s : State) (v : Word) :
    s.exchangeTop v = { s with mem := (s.mem.write (s.sp + 1).toNat (hi v)).write s.sp.toNat (lo v) } := rfl

theorem State.wf_exchangeTop {s : State} (h : s.mem.wf = true) (v : Word) : (s.exchangeTop v).mem.wf = true :=
  State.wf_writeByte (State.wf_writeByte h (s.sp + 1) (hi v)) s.sp (lo v)

/-! ### Free values and ports -/

/-- An open pair of flags: F is given but for Y and X, and at most one free value is taken. -/
theorem State.setOpenF_eq (s : State) (f : Flags) (o : Option (Bool × Bool)) :
    s.setOpenF f o =
      { s with
        main := s.main.setF { f with y := (s.openXY o).1, x := (s.openXY o).2 }
        draws := (s.openTaken o).draws } := by
  unfold State.setOpenF State.openTaken
  split <;> rfl

/-- With `XY_OPEN = silicon` and a source given, Y and X are the source's. -/
theorem State.openXY_silicon {s : State} (h : s.cfg.xyOpen = .silicon) (v : Bool × Bool) : s.openXY (some v) = v := by
  simp [State.openXY, h]

/-- Otherwise they are two bits of the next free value. -/
theorem State.openXY_draw {s : State} (h : s.cfg.xyOpen = .draw) (o : Option (Bool × Bool)) :
    s.openXY o = bits53 (Config.freeByte s.draws) := by
  simp only [State.openXY, h]
  rfl

theorem State.setBlockIoF_eq (s : State) (b t j : Byte) :
    s.setBlockIoF b t j =
      { s with main := s.main.setF (s.setBlockIoF b t j).main.f, draws := (s.setBlockIoF b t j).draws } := by
  unfold State.setBlockIoF
  split <;> rfl

/-- Z after block I/O, whatever `BLOCK_IO_FLAGS` says (R45). -/
theorem State.setBlockIoF_z (s : State) (b t j : Byte) : (s.setBlockIoF b t j).main.f.z = decide (b = 0) := by
  unfold State.setBlockIoF
  split <;> rfl

/-- A port read takes one answer or one free value and is recorded; nothing else changes. -/
theorem State.afterPortRead_eq (s : State) (port : Word) :
    s.afterPortRead port =
      { s with
        io := s.io ++ [IoEvent.read port s.portAnswer]
        portIn := s.portIn.tail
        draws := if s.portIn = [] then s.draws + 1 else s.draws } := by
  cases s with
  | mk main alt ix iy sp pc i r iff1 iff2 im halted eiPending nmiPending mem io portIn inputs draws cfg =>
    cases portIn <;> rfl

theorem State.portWrite_eq (s : State) (port : Word) (v : Byte) :
    s.portWrite port v = { s with io := s.io ++ [IoEvent.write port v] } := rfl

/-! ### R, interrupts, reset, and the frame of an instruction -/

theorem State.countFetch_eq (s : State) : s.countFetch = { s with r := nextR s.r } := rfl

theorem State.advance_eq (s : State) (len : Nat) :
    s.advance len = { s with pc := s.pc + BitVec.ofNat 16 len, r := nextR s.r, eiPending := false } := rfl

theorem State.acknowledge_nmi (s : State) :
    s.acknowledge .nmi =
      { s with halted := false, eiPending := false, r := nextR s.r, iff1 := false, nmiPending := false } := rfl

theorem State.acknowledge_maskable (s : State) :
    s.acknowledge .maskable =
      { s with halted := false, eiPending := false, r := nextR s.r, iff1 := false, iff2 := false } := rfl

theorem State.enterHandler_eq (s : State) (q : Request) (target : Word) :
    s.enterHandler q target =
      { s.acknowledge q with
        mem := (s.mem.write (s.sp - 1).toNat (hi s.pc)).write (s.sp - 2).toNat (lo s.pc)
        sp := s.sp - 2
        pc := target } := by
  cases q <;> rfl

theorem State.sampled_eq (s : State) :
    s.sampled = { s with inputs := s.inputs.tail, nmiPending := s.nmiPending || s.boundary.nmi } := rfl

end Machine
end Sys2Proof
end

