-- ==== Sys2Proof/Laws/Flags.lean ====
section
/-!
SUPPORT. What the flag computations say, in plain arithmetic: the exact sum or difference with its carries, parity as a
count of ones, rotates and shifts as bit-vector operations.
-/
namespace Sys2Proof.Machine

/-- What holds of each of the 256 bytes holds of every byte. -/
theorem forall_byte {P : Byte → Prop} (h : ∀ k : Fin 256, P (BitVec.ofFin k)) (b : Byte) : P b := h b.toFin

/-! ### F as a byte (R40) -/

@[simp] theorem Flags.ofByte_toByte (f : Flags) : Flags.ofByte f.toByte = f := by
  obtain ⟨s, z, y, h, x, pv, n, c⟩ := f
  revert s z y h x pv n c
  decide +kernel

@[simp] theorem Flags.toByte_ofByte (v : Byte) : (Flags.ofByte v).toByte = v := by
  refine forall_byte (P := fun v => (Flags.ofByte v).toByte = v) ?_ v
  decide +kernel

/-! ### S, Z, Y, X and parity -/

theorem parity_iff (v : Byte) : parity v = true ↔ onesIn v % 2 = 0 := by
  refine forall_byte (P := fun v => parity v = true ↔ onesIn v % 2 = 0) ?_ v
  decide +kernel

theorem sign_byte (v : Byte) : v.getLsbD 7 = decide (v.toInt < 0) := by
  refine forall_byte (P := fun v => v.getLsbD 7 = decide (v.toInt < 0)) ?_ v
  decide +kernel

theorem sign_byte_nat (v : Byte) : v.getLsbD 7 = decide (128 ≤ v.toNat) := by
  refine forall_byte (P := fun v => v.getLsbD 7 = decide (128 ≤ v.toNat)) ?_ v
  decide +kernel

theorem sign_word_nat (v : Word) : v.getLsbD 15 = decide (32768 ≤ v.toNat) := by
  rw [show v.getLsbD 15 = v.msb from rfl, BitVec.msb_eq_decide]

theorem sign_word (v : Word) : v.getLsbD 15 = decide (v.toInt < 0) := by
  rw [show v.getLsbD 15 = v.msb from rfl, BitVec.msb_eq_toInt]

theorem zero_byte (v : Byte) : decide (v = 0) = decide (v.toNat = 0) := by
  refine forall_byte (P := fun v => decide (v = 0) = decide (v.toNat = 0)) ?_ v
  decide +kernel

/-- Flags whose S, Z, Y, X are those of a result show it. -/
theorem showsResult_iff (f : Flags) (v : Byte) :
    ShowsResult f v ↔ f.s = v.getLsbD 7 ∧ f.z = decide (v = 0) ∧ f.y = v.getLsbD 5 ∧ f.x = v.getLsbD 3 := by
  rw [ShowsResult, sign_byte, zero_byte]

theorem szxy_shows (f : Flags) (v : Byte) : ShowsResult (f.szxy v) v := (showsResult_iff _ _).mpr ⟨rfl, rfl, rfl, rfl⟩

/-! ### 8-bit arithmetic (R42) -/

theorem toInt_byte (v : Byte) : v.toInt = if v.toNat < 128 then (v.toNat : Int) else v.toNat - 256 := by
  rw [BitVec.toInt_eq_toNat_cond]
  split <;> split <;> omega

theorem toInt_word (v : Word) : v.toInt = if v.toNat < 32768 then (v.toNat : Int) else v.toNat - 65536 := by
  rw [BitVec.toInt_eq_toNat_cond]
  split <;> split <;> omega

theorem toNat_bool (b : Bool) : b.toNat = 0 ∨ b.toNat = 1 := by
  cases b
  · exact .inl rfl
  · exact .inr rfl

theorem toNat_decide (p : Prop) [Decidable p] : (decide p).toNat = if p then 1 else 0 := by
  by_cases h : p <;> simp [h]

/-- ADD8: the exact sum with its carry, H, signed overflow, N, and S, Z, Y, X. -/
theorem add8_spec (a b : Byte) (cin : Bool) :
    (add8 a b cin).1.toNat + 256 * (add8 a b cin).2.c.toNat = a.toNat + b.toNat + cin.toNat ∧
    ((add8 a b cin).2.h = true ↔ 16 ≤ a.toNat % 16 + b.toNat % 16 + cin.toNat) ∧
    ((add8 a b cin).2.pv = true ↔ a.toInt + b.toInt + cin.toNat < -128 ∨ 127 < a.toInt + b.toInt + cin.toNat) ∧
    (add8 a b cin).2.n = false ∧ ShowsResult (add8 a b cin).2 (add8 a b cin).1 := by
  have ha := a.isLt
  have hb := b.isLt
  have hc := toNat_bool cin
  refine ⟨?_, ?_, ?_, rfl, (showsResult_iff _ _).mpr ⟨rfl, rfl, rfl, rfl⟩⟩
  · simp only [add8, toNat_decide, BitVec.toNat_ofNat]
    split <;> omega
  · simp only [add8, decide_eq_true_eq]
    omega
  · simp only [add8, sign_byte_nat, BitVec.toNat_ofNat, toInt_byte, Bool.and_eq_true, bne_iff_ne, beq_iff_eq, ne_eq,
      decide_eq_decide]
    split <;> split <;> omega

/-- SUB8: the exact difference with its borrow, H, signed overflow, N, and S, Z, Y, X. -/
theorem sub8_spec (a b : Byte) (cin : Bool) :
    (sub8 a b cin).1.toNat + b.toNat + cin.toNat = a.toNat + 256 * (sub8 a b cin).2.c.toNat ∧
    ((sub8 a b cin).2.h = true ↔ a.toNat % 16 < b.toNat % 16 + cin.toNat) ∧
    ((sub8 a b cin).2.pv = true ↔ a.toInt - b.toInt - cin.toNat < -128 ∨ 127 < a.toInt - b.toInt - cin.toNat) ∧
    (sub8 a b cin).2.n = true ∧ ShowsResult (sub8 a b cin).2 (sub8 a b cin).1 := by
  have ha := a.isLt
  have hb := b.isLt
  have hc := toNat_bool cin
  refine ⟨?_, ?_, ?_, rfl, (showsResult_iff _ _).mpr ⟨rfl, rfl, rfl, rfl⟩⟩
  · simp only [sub8, toNat_decide, BitVec.toNat_sub, BitVec.toNat_ofNat]
    split <;> omega
  · simp only [sub8, decide_eq_true_eq]
  · simp only [sub8, sign_byte_nat, BitVec.toNat_sub, BitVec.toNat_ofNat, toInt_byte, Bool.and_eq_true, bne_iff_ne,
      ne_eq, decide_eq_decide]
    split <;> split <;> omega

theorem inc8_spec (v : Byte) (f : Flags) :
    (inc8 v f).1 = v + 1 ∧ ShowsResult (inc8 v f).2 (v + 1) ∧ ((inc8 v f).2.h = true ↔ v.toNat % 16 = 15) ∧
    ((inc8 v f).2.pv = true ↔ v = 0x7F) ∧ (inc8 v f).2.n = false ∧ (inc8 v f).2.c = f.c := by
  have key : ∀ v : Byte, (decide ((v + 1).toNat % 16 = 0) = true ↔ v.toNat % 16 = 15) ∧
      (decide (v + 1 = 0x80) = true ↔ v = 0x7F) := forall_byte (by decide +kernel)
  exact ⟨rfl, (showsResult_iff _ _).mpr ⟨rfl, rfl, rfl, rfl⟩, (key v).1, (key v).2, rfl, rfl⟩

theorem dec8_spec (v : Byte) (f : Flags) :
    (dec8 v f).1 = v - 1 ∧ ShowsResult (dec8 v f).2 (v - 1) ∧ ((dec8 v f).2.h = true ↔ v.toNat % 16 = 0) ∧
    ((dec8 v f).2.pv = true ↔ v = 0x80) ∧ (dec8 v f).2.n = true ∧ (dec8 v f).2.c = f.c := by
  have key : ∀ v : Byte, (decide ((v - 1).toNat % 16 = 15) = true ↔ v.toNat % 16 = 0) ∧
      (decide (v - 1 = 0x7F) = true ↔ v = 0x80) := forall_byte (by decide +kernel)
  exact ⟨rfl, (showsResult_iff _ _).mpr ⟨rfl, rfl, rfl, rfl⟩, (key v).1, (key v).2, rfl, rfl⟩

theorem logic8_spec (v : Byte) (h : Bool) :
    ShowsResult (logic8 v h) v ∧ (logic8 v h).h = h ∧ ((logic8 v h).pv = true ↔ onesIn v % 2 = 0) ∧
    (logic8 v h).n = false ∧ (logic8 v h).c = false :=
  ⟨(showsResult_iff _ _).mpr ⟨rfl, rfl, rfl, rfl⟩, rfl, parity_iff v, rfl, rfl⟩

/-- IN, RRD, RLD: the flags of a byte, C kept. -/
theorem inFlags_spec (f : Flags) (v : Byte) :
    ShowsResult (inFlags f v) v ∧ (inFlags f v).h = false ∧ ((inFlags f v).pv = true ↔ onesIn v % 2 = 0) ∧
    (inFlags f v).n = false ∧ (inFlags f v).c = f.c :=
  ⟨(showsResult_iff _ _).mpr ⟨rfl, rfl, rfl, rfl⟩, rfl, parity_iff v, rfl, rfl⟩

/-! ### 16-bit arithmetic (R43) -/

theorem add16_spec (a b : Word) (f : Flags) :
    (add16 a b f).1.toNat + 65536 * (add16 a b f).2.c.toNat = a.toNat + b.toNat ∧
    ((add16 a b f).2.h = true ↔ 4096 ≤ a.toNat % 4096 + b.toNat % 4096) ∧
    (add16 a b f).2 = { f with h := (add16 a b f).2.h, n := false, c := (add16 a b f).2.c } := by
  have ha := a.isLt
  have hb := b.isLt
  refine ⟨?_, ?_, rfl⟩
  · simp only [add16, toNat_decide, BitVec.toNat_ofNat]
    split <;> omega
  · simp only [add16, decide_eq_true_eq]
    omega

theorem adc16_spec (a b : Word) (f : Flags) :
    (adc16 a b f).1.toNat + 65536 * (adc16 a b f).2.c.toNat = a.toNat + b.toNat + f.c.toNat ∧
    ((adc16 a b f).2.h = true ↔ 4096 ≤ a.toNat % 4096 + b.toNat % 4096 + f.c.toNat) ∧
    ((adc16 a b f).2.pv = true ↔ a.toInt + b.toInt + f.c.toNat < -32768 ∨ 32767 < a.toInt + b.toInt + f.c.toNat) ∧
    (adc16 a b f).2.n = false ∧ ((adc16 a b f).2.s = true ↔ (adc16 a b f).1.toInt < 0) ∧
    ((adc16 a b f).2.z = true ↔ (adc16 a b f).1 = 0) := by
  have ha := a.isLt
  have hb := b.isLt
  have hc := toNat_bool f.c
  refine ⟨?_, ?_, ?_, rfl, by simp only [adc16, sign_word, decide_eq_true_eq], by simp only [adc16, decide_eq_true_eq]⟩
  · simp only [adc16, toNat_decide, BitVec.toNat_ofNat]
    split <;> omega
  · simp only [adc16, decide_eq_true_eq]
    omega
  · simp only [adc16, sign_word_nat, BitVec.toNat_ofNat, toInt_word, Bool.and_eq_true, bne_iff_ne, beq_iff_eq, ne_eq,
      decide_eq_decide]
    split <;> split <;> omega

theorem sbc16_spec (a b : Word) (f : Flags) :
    (sbc16 a b f).1.toNat + b.toNat + f.c.toNat = a.toNat + 65536 * (sbc16 a b f).2.c.toNat ∧
    ((sbc16 a b f).2.h = true ↔ a.toNat % 4096 < b.toNat % 4096 + f.c.toNat) ∧
    ((sbc16 a b f).2.pv = true ↔ a.toInt - b.toInt - f.c.toNat < -32768 ∨ 32767 < a.toInt - b.toInt - f.c.toNat) ∧
    (sbc16 a b f).2.n = true ∧ ((sbc16 a b f).2.s = true ↔ (sbc16 a b f).1.toInt < 0) ∧
    ((sbc16 a b f).2.z = true ↔ (sbc16 a b f).1 = 0) := by
  have ha := a.isLt
  have hb := b.isLt
  have hc := toNat_bool f.c
  refine ⟨?_, ?_, ?_, rfl, by simp only [sbc16, sign_word, decide_eq_true_eq], by simp only [sbc16, decide_eq_true_eq]⟩
  · simp only [sbc16, toNat_decide, BitVec.toNat_sub, BitVec.toNat_ofNat]
    split <;> omega
  · simp only [sbc16, decide_eq_true_eq]
  · simp only [sbc16, sign_word_nat, BitVec.toNat_sub, BitVec.toNat_ofNat, toInt_word, Bool.and_eq_true, bne_iff_ne,
      ne_eq, decide_eq_decide]
    split <;> split <;> omega

/-! ### Rotates, shifts and bits (R43, R350 to R355) -/

/-- The result and the carry of a rotate or shift. -/
theorem rot_spec (o : Rot) (v : Byte) (cin bit0 : Bool) : rot o v cin bit0 = (rotated o v cin bit0, carriedOut o v) := by
  have key : ∀ k : Fin 256, rot o (BitVec.ofFin k) cin bit0 =
      (rotated o (BitVec.ofFin k) cin bit0, carriedOut o (BitVec.ofFin k)) := by
    cases o <;> cases cin <;> cases bit0 <;> decide +kernel
  exact key v.toFin

theorem rotFlags_spec (v : Byte) (c : Bool) :
    ShowsResult (rotFlags v c) v ∧ (rotFlags v c).h = false ∧ ((rotFlags v c).pv = true ↔ onesIn v % 2 = 0) ∧
    (rotFlags v c).n = false ∧ (rotFlags v c).c = c :=
  ⟨(showsResult_iff _ _).mpr ⟨rfl, rfl, rfl, rfl⟩, rfl, parity_iff v, rfl, rfl⟩

/-- Each bit after RES. -/
theorem resBit_spec (b k : Fin 8) (v : Byte) :
    (resBit b v).getLsbD k.val = if k = b then false else v.getLsbD k.val := by
  have key : ∀ v : Byte, ∀ b k : Fin 8, (resBit b v).getLsbD k.val = if k = b then false else v.getLsbD k.val :=
    forall_byte (by decide +kernel)
  exact key v b k

/-- Each bit after SET. -/
theorem setBit_spec (b k : Fin 8) (v : Byte) :
    (setBit b v).getLsbD k.val = if k = b then true else v.getLsbD k.val := by
  have key : ∀ v : Byte, ∀ b k : Fin 8, (setBit b v).getLsbD k.val = if k = b then true else v.getLsbD k.val :=
    forall_byte (by decide +kernel)
  exact key v b k

/-- A byte from two nibbles. -/
theorem nibbles_toNat (h l : BitVec 4) : (nibbles h l).toNat = 16 * h.toNat + l.toNat := by
  revert h l
  decide +kernel

theorem lowNibble_toNat (v : Byte) : (lowNibble v).toNat = v.toNat % 16 := by
  refine forall_byte (P := fun v => (lowNibble v).toNat = v.toNat % 16) ?_ v
  decide +kernel

theorem highNibble_toNat (v : Byte) : (highNibble v).toNat = v.toNat / 16 := by
  refine forall_byte (P := fun v => (highNibble v).toNat = v.toNat / 16) ?_ v
  decide +kernel

end Sys2Proof.Machine
end

