-- ==== Sys2Proof/Laws/Operands.lean ====
section
/-!
SUPPORT. For each operation over operands, once, everything it does, as a record update of the state.
-/
namespace Sys2Proof.Machine

/-- What a write of r or (HL) leaves there (R112). -/
theorem State.operand_setOperand {s : State} (h : s.mem.wf = true) (z : Operand8) (v : Byte) :
    (s.setOperand z v).operand z = v := by
  cases z with
  | reg r => simp [State.setOperand, State.operand, State.reg, State.setReg, Bank.reg_setReg]
  | hlInd =>
    show (s.writeByte s.main.hl v).readByte s.main.hl = v
    rw [State.readByte_writeByte h, if_pos rfl]

theorem State.setAF_eq (s : State) (r : Byte × Flags) :
    s.setAF r = { s with main := { s.main with a := r.1, f := r.2 } } := rfl

theorem State.aluCp_eq (s : State) (v : Byte) :
    s.aluCp v =
      { s with
        main := { s.main with
          f := { (sub8 s.main.a v false).2 with
            y := (s.openXY (some (bits53 v))).1, x := (s.openXY (some (bits53 v))).2 } }
        draws := (s.openTaken (some (bits53 v))).draws } :=
  State.setOpenF_eq s _ _

theorem State.incReg_eq (s : State) (r : Reg8) :
    s.incReg r =
      { s with main := (s.main.setReg r (inc8 (s.reg r) s.main.f).1).setF (inc8 (s.reg r) s.main.f).2 } := rfl

theorem State.decReg_eq (s : State) (r : Reg8) :
    s.decReg r =
      { s with main := (s.main.setReg r (dec8 (s.reg r) s.main.f).1).setF (dec8 (s.reg r) s.main.f).2 } := rfl

theorem State.incAt_eq (s : State) (a : Word) :
    s.incAt a =
      { s with
        mem := s.mem.write a.toNat (inc8 (s.readByte a) s.main.f).1
        main := { s.main with f := (inc8 (s.readByte a) s.main.f).2 } } := rfl

theorem State.decAt_eq (s : State) (a : Word) :
    s.decAt a =
      { s with
        mem := s.mem.write a.toNat (dec8 (s.readByte a) s.main.f).1
        main := { s.main with f := (dec8 (s.readByte a) s.main.f).2 } } := rfl

/-- Y and X, and the free value taken, depend on the counter and the setting alone. -/
theorem State.openXY_congr {s t : State} (hd : t.draws = s.draws) (hc : t.cfg = s.cfg) (o : Option (Bool × Bool)) :
    t.openXY o = s.openXY o := by
  simp only [State.openXY, State.draw, hd, hc]

theorem State.openTaken_draws {s t : State} (hd : t.draws = s.draws) (hc : t.cfg = s.cfg) (o : Option (Bool × Bool)) :
    (t.openTaken o).draws = (s.openTaken o).draws := by
  unfold State.openTaken
  rw [hc]
  split <;> simp [State.drawn, hd]

/-- With `XY_OPEN = silicon` and a source given no free value is taken. -/
theorem State.openTaken_silicon {s : State} (h : s.cfg.xyOpen = .silicon) (v : Bool × Bool) :
    s.openTaken (some v) = s := by
  simp [State.openTaken, h]

/-- Open flags after updates that leave the counter and the settings as they were in `s`. -/
theorem State.setOpenF_of {s u : State} (hd : u.draws = s.draws) (hc : u.cfg = s.cfg) (f : Flags)
    (o : Option (Bool × Bool)) :
    u.setOpenF f o =
      { u with
        main := u.main.setF { f with y := (s.openXY o).1, x := (s.openXY o).2 }
        draws := (s.openTaken o).draws } := by
  rw [State.setOpenF_eq, State.openXY_congr hd hc, State.openTaken_draws hd hc]

theorem State.setHlOpenF_eq (s : State) (r : Word × Flags) :
    s.setHlOpenF r =
      { s with
        main := { s.main with
          h := hi r.1
          l := lo r.1
          f := { r.2 with
            y := (s.openXY (some (bits1311 r.1))).1, x := (s.openXY (some (bits1311 r.1))).2 } }
        draws := (s.openTaken (some (bits1311 r.1))).draws } := by
  exact State.setOpenF_of (s := s) (u := s.setHl r.1) rfl rfl _ _

theorem State.setXyOpenF_eq (s : State) (x : IndexReg) (r : Word × Flags) :
    s.setXyOpenF x r =
      { s.setXy x r.1 with
        main := { s.main with
          f := { r.2 with
            y := (s.openXY (some (bits1311 r.1))).1, x := (s.openXY (some (bits1311 r.1))).2 } }
        draws := (s.openTaken (some (bits1311 r.1))).draws } := by
  have h1 : (s.setXy x r.1).draws = s.draws := by cases x <;> rfl
  have h2 : (s.setXy x r.1).cfg = s.cfg := by cases x <;> rfl
  have h3 : (s.setXy x r.1).main = s.main := by cases x <;> rfl
  rw [State.setXyOpenF, State.setOpenF_of h1 h2, h3]
  rfl

theorem State.rotA_eq (s : State) (o : Rot) :
    s.rotA o =
      { s with
        main := { s.main with
          a := (s.rotResult o s.main.a).1
          f := rotAFlags s.main.f (s.rotResult o s.main.a).1 (s.rotResult o s.main.a).2 } } := rfl

theorem State.rotOperand_reg (s : State) (o : Rot) (r : Reg8) :
    s.rotOperand o (.reg r) =
      { s with
        main := (s.main.setReg r (s.rotResult o (s.reg r)).1).setF
          (rotFlags (s.rotResult o (s.reg r)).1 (s.rotResult o (s.reg r)).2) } := rfl

theorem State.rotOperand_hlInd (s : State) (o : Rot) :
    s.rotOperand o .hlInd =
      { s with
        mem := s.mem.write s.main.hl.toNat (s.rotResult o (s.readByte s.main.hl)).1
        main := { s.main with
          f := rotFlags (s.rotResult o (s.readByte s.main.hl)).1 (s.rotResult o (s.readByte s.main.hl)).2 } } := rfl

theorem State.testBit_eq (s : State) (b : Fin 8) (v : Byte) (o : Option (Bool × Bool)) :
    s.testBit b v o =
      { s with
        main := { s.main with
          f := { bitFlags s.main.f b (v.getLsbD b.val) with y := (s.openXY o).1, x := (s.openXY o).2 } }
        draws := (s.openTaken o).draws } :=
  State.setOpenF_eq s _ _

theorem State.rotXyd_eq (s : State) (x : IndexReg) (o : Rot) (d : Byte) :
    s.rotXyd x o d =
      { s with
        mem := s.mem.write (s.ea x d).toNat (s.rotResult o (s.readXyd x d)).1
        main := { s.main with
          f := rotFlags (s.rotResult o (s.readXyd x d)).1 (s.rotResult o (s.readXyd x d)).2 } } := rfl

theorem State.rotXydReg_eq (s : State) (x : IndexReg) (o : Rot) (d : Byte) (r : Reg8) :
    s.rotXydReg x o d r =
      { s with
        mem := s.mem.write (s.ea x d).toNat (s.rotResult o (s.readXyd x d)).1
        main := (s.main.setF (rotFlags (s.rotResult o (s.readXyd x d)).1 (s.rotResult o (s.readXyd x d)).2)).setReg r
          (s.rotResult o (s.readXyd x d)).1 } := rfl

theorem State.writeXydReg_eq (s : State) (x : IndexReg) (d : Byte) (r : Reg8) (v : Byte) :
    s.writeXydReg x d r v =
      { s with mem := s.mem.write (s.ea x d).toNat v, main := s.main.setReg r v } := rfl

theorem State.setDecimal_eq (s : State) (m a : Byte) :
    s.setDecimal m a =
      { s with
        mem := s.mem.write s.main.hl.toNat m
        main := { s.main with a := a, f := inFlags s.main.f a } } := rfl

/-! ### Block instructions -/

theorem State.repeatIf_eq (s : State) (again : Bool) :
    s.repeatIf again = { s with pc := if again = true then s.pc - 2 else s.pc } := by
  cases again <;> rfl

/-- LDI and LDD, `o` being silicon's Y and X. -/
theorem State.blockLoad_eq {s : State} (k : Dir) (o : Option (Bool × Bool))
    (h : o = some ((s.main.a + s.readByte s.main.hl).getLsbD 1, (s.main.a + s.readByte s.main.hl).getLsbD 3)) :
    s.blockLoad k =
      { s with
        mem := s.mem.write s.main.de.toNat (s.readByte s.main.hl)
        main := (((s.main.setHl (k.step s.main.hl)).setDe (k.step s.main.de)).setBc (s.main.bc - 1)).setF
          { blockLoadFlags s.main.f (s.main.bc - 1) with y := (s.openXY o).1, x := (s.openXY o).2 }
        draws := (s.openTaken o).draws } := by
  subst h
  unfold State.blockLoad
  exact State.setOpenF_of (s := s) (by rfl) (by rfl) _ _

/-- CPI and CPD, `f` being the flags and `o` silicon's Y and X. -/
theorem State.blockCompare_eq {s : State} (k : Dir) (f : Flags) (o : Option (Bool × Bool))
    (hf : f = blockCompareFlags s.main.f s.main.a (s.readByte s.main.hl) (s.main.bc - 1))
    (h : o = some (compareXY s.main.a (s.readByte s.main.hl) f.h)) :
    s.blockCompare k =
      { s with
        main := ((s.main.setHl (k.step s.main.hl)).setBc (s.main.bc - 1)).setF
          { f with y := (s.openXY o).1, x := (s.openXY o).2 }
        draws := (s.openTaken o).draws } := by
  subst hf
  subst h
  unfold State.blockCompare
  exact State.setOpenF_of (s := s) (by rfl) (by rfl) _ _

/-- INI and IND but for F and the free values. -/
theorem State.blockIn_eq (s : State) (k : Dir) :
    s.blockIn k =
      { s with
        mem := s.mem.write s.main.hl.toNat s.portAnswer
        io := s.io ++ [IoEvent.read s.main.bc s.portAnswer]
        portIn := s.portIn.tail
        main := { s.main with
          b := s.main.b - 1
          h := hi (k.step s.main.hl)
          l := lo (k.step s.main.hl)
          f := (s.blockIn k).main.f }
        draws := (s.blockIn k).draws } := by
  rw [State.blockIn, State.setBlockIoF_eq, State.afterPortRead_eq]
  rfl

/-- OUTI and OUTD but for F and the free values. -/
theorem State.blockOut_eq (s : State) (k : Dir) :
    s.blockOut k =
      { s with
        io := s.io ++ [IoEvent.write (pair (s.main.b - 1) s.main.c) (s.readByte s.main.hl)]
        main := { s.main with
          b := s.main.b - 1
          h := hi (k.step s.main.hl)
          l := lo (k.step s.main.hl)
          f := (s.blockOut k).main.f }
        draws := (s.blockOut k).draws } := by
  rw [State.blockOut, State.setBlockIoF_eq]
  rfl

/-- F after block I/O as on silicon (R45). -/
theorem State.setBlockIoF_silicon {s : State} (h : s.cfg.blockIoFlags = .silicon) (b t j : Byte) :
    s.setBlockIoF b t j = s.setF (blockIoSilicon b t j) := by
  simp [State.setBlockIoF, h]

/-- F after block I/O by default (R45): Z is fixed, the rest is a free value. -/
theorem State.setBlockIoF_draw {s : State} (h : s.cfg.blockIoFlags = .draw) (b t j : Byte) :
    s.setBlockIoF b t j = s.drawn.setF { Flags.ofByte (Config.freeByte s.draws) with z := decide (b = 0) } := by
  simp [State.setBlockIoF, h, State.draw]

/-! ### Interrupt returns, reset, and the halves of an index register -/

theorem State.returnFromHandler_eq (s : State) (copies : Bool) :
    s.returnFromHandler copies =
      { s with
        pc := s.readWord s.sp
        sp := s.sp + 2
        iff1 := if copies = true then s.iff2 else s.iff1 } := by
  cases copies <;> rfl

theorem State.swapHlXy_ix (s : State) :
    s.swapHlXy .ix = { s with ix := s.main.hl, main := { s.main with h := hi s.ix, l := lo s.ix } } := rfl

theorem State.swapHlXy_iy (s : State) :
    s.swapHlXy .iy = { s with iy := s.main.hl, main := { s.main with h := hi s.iy, l := lo s.iy } } := rfl

end Sys2Proof.Machine
end

