-- ==== Sys2Proof/Laws/PerInstr.lean ====
section
/-!
SUPPORT. The family RoundTrip: the decoder reads an instruction's own bytes, on its page and whatever follows them, as that
instruction, and knows how many bytes it takes.
-/
namespace Sys2Proof.Laws.RoundTrip

/-- A well-formed instruction's bytes on its page decode to it, whatever stands after them. -/
def Statement (i : Instr) : Prop :=
  i.wf = true → ∀ rest : List Byte,
    decodeOn i.page ((i.pageBytes ++ rest).getD 0 0) ((i.pageBytes ++ rest).getD 1 0) ((i.pageBytes ++ rest).getD 2 0)
      = (i, i.pageBytes.length)

/-- A byte is one of 256. -/
theorem byte_cases {P : Byte → Prop} (h : ∀ k : Fin 256, P (BitVec.ofFin k)) (b : Byte) : P b := h b.toFin

theorem decodeEd_unlisted (op b1 b2 : Byte) (h : edListed.contains op = false) :
    decodeEd op b1 b2 = (.edUnlisted op, 1) := by
  revert h
  refine byte_cases (P := fun op => edListed.contains op = false → decodeEd op b1 b2 = (.edUnlisted op, 1)) ?_ op
  intro k
  fin_cases k <;> intro h <;> first | rfl | exact absurd h (by decide)

/-- An opcode that is neither admitted nor a prefix byte. -/
def unlistedIdx (op : Byte) : Bool := !idxAdmitted.contains op && !idxPrefixes.contains op

theorem decodeIX_unlisted (op b1 b2 : Byte) (h : unlistedIdx op = true) : decodeIX op b1 b2 = ixUnlistedOp op b1 b2 := by
  revert h
  refine byte_cases (P := fun op => unlistedIdx op = true → decodeIX op b1 b2 = ixUnlistedOp op b1 b2) ?_ op
  intro k
  fin_cases k <;> intro h <;> first | rfl | exact absurd h (by decide)

theorem decodeIY_unlisted (op b1 b2 : Byte) (h : unlistedIdx op = true) : decodeIY op b1 b2 = iyUnlistedOp op b1 b2 := by
  revert h
  refine byte_cases (P := fun op => unlistedIdx op = true → decodeIY op b1 b2 = iyUnlistedOp op b1 b2) ?_ op
  intro k
  fin_cases k <;> intro h <;> first | rfl | exact absurd h (by decide)

/-- What the well-formedness of an unlisted DD or FD opcode says. -/
theorem idxUnlistedWf_iff {op n1 n2 : Byte} (h : idxUnlistedWf op n1 n2 = true) :
    unlistedIdx op = true ∧ (mainOperandBytes op < 1 → n1 = 0) ∧ (mainOperandBytes op < 2 → n2 = 0) := by
  simp only [idxUnlistedWf, Bool.and_eq_true, Bool.or_eq_true, decide_eq_true_eq, beq_iff_eq] at h
  refine ⟨by simpa [unlistedIdx] using h.1.1, fun l => ?_, fun l => ?_⟩
  · exact h.1.2.resolve_left (by omega)
  · exact h.2.resolve_left (by omega)

theorem mainOperandBytes_le (op : Byte) : mainOperandBytes op ≤ 2 := by
  unfold mainOperandBytes
  repeat' split
  all_goals omega

theorem ixUnlisted (op n1 n2 : Byte) : Statement (.ixUnlisted op n1 n2) := by
  intro h rest
  obtain ⟨hop, h1, h2⟩ := idxUnlistedWf_iff h
  show decodeIX ((op :: unlistedOperands op n1 n2 ++ rest).getD 0 0) _ _ = (_, (op :: unlistedOperands op n1 n2).length)
  rw [show (op :: unlistedOperands op n1 n2 ++ rest).getD 0 0 = op from rfl, decodeIX_unlisted _ _ _ hop]
  have le := mainOperandBytes_le op
  unfold ixUnlistedOp
  rcases (by omega : mainOperandBytes op = 0 ∨ mainOperandBytes op = 1 ∨ mainOperandBytes op = 2) with e | e | e
  · rw [h1 (by omega), h2 (by omega)]
    simp [unlistedOperands, e]
  · rw [h2 (by omega)]
    simp [unlistedOperands, Instr.pageBytes, e]
  · simp [unlistedOperands, Instr.pageBytes, e]

theorem iyUnlisted (op n1 n2 : Byte) : Statement (.iyUnlisted op n1 n2) := by
  intro h rest
  obtain ⟨hop, h1, h2⟩ := idxUnlistedWf_iff h
  show decodeIY ((op :: unlistedOperands op n1 n2 ++ rest).getD 0 0) _ _ = (_, (op :: unlistedOperands op n1 n2).length)
  rw [show (op :: unlistedOperands op n1 n2 ++ rest).getD 0 0 = op from rfl, decodeIY_unlisted _ _ _ hop]
  have le := mainOperandBytes_le op
  unfold iyUnlistedOp
  rcases (by omega : mainOperandBytes op = 0 ∨ mainOperandBytes op = 1 ∨ mainOperandBytes op = 2) with e | e | e
  · rw [h1 (by omega), h2 (by omega)]
    simp [unlistedOperands, e]
  · rw [h2 (by omega)]
    simp [unlistedOperands, Instr.pageBytes, e]
  · simp [unlistedOperands, Instr.pageBytes, e]

theorem edUnlisted (op : Byte) : Statement (.edUnlisted op) := by
  intro h rest
  exact decodeEd_unlisted op _ _ (by simpa [Instr.wf] using h)

theorem nop : Statement .nop := by
  intro _ rest
  show decodeOn .main 0x00 _ _ = (_, 1)
  rfl
theorem ldRpNn (p : Rp) (nn : Word) : Statement (.ldRpNn p nn) := by
  intro _ rest
  show decodeOn .main (opcodeByte 0 (2 * p.code) 1) (lo nn) (hi nn) = (_, 3)
  cases p <;> exact congrArg (fun v => (Instr.ldRpNn (_) v, 3)) (imm16_lo_hi nn)
theorem ldBCindA : Statement .ldBCindA := by
  intro _ rest
  show decodeOn .main 0x02 _ _ = (_, 1)
  rfl
theorem incRp (p : Rp) : Statement (.incRp p) := by
  intro _ rest
  show decodeOn .main (opcodeByte 0 (2 * p.code) 3) _ _ = (_, 1)
  cases p <;> rfl
theorem incR (r : Reg8) : Statement (.incR r) := by
  intro _ rest
  show decodeOn .main (opcodeByte 0 r.code 4) _ _ = (_, 1)
  cases r <;> rfl
theorem decR (r : Reg8) : Statement (.decR r) := by
  intro _ rest
  show decodeOn .main (opcodeByte 0 r.code 5) _ _ = (_, 1)
  cases r <;> rfl
theorem ldRN (r : Reg8) (n : Byte) : Statement (.ldRN r n) := by
  intro _ rest
  show decodeOn .main (opcodeByte 0 r.code 6) n _ = (_, 2)
  cases r <;> rfl
theorem rlca : Statement .rlca := by
  intro _ rest
  show decodeOn .main 0x07 _ _ = (_, 1)
  rfl
theorem exAFAF : Statement .exAFAF := by
  intro _ rest
  show decodeOn .main 0x08 _ _ = (_, 1)
  rfl
theorem addHLRp (p : Rp) : Statement (.addHLRp p) := by
  intro _ rest
  show decodeOn .main (opcodeByte 0 (2 * p.code + 1) 1) _ _ = (_, 1)
  cases p <;> rfl
theorem ldABCind : Statement .ldABCind := by
  intro _ rest
  show decodeOn .main 0x0A _ _ = (_, 1)
  rfl
theorem decRp (p : Rp) : Statement (.decRp p) := by
  intro _ rest
  show decodeOn .main (opcodeByte 0 (2 * p.code + 1) 3) _ _ = (_, 1)
  cases p <;> rfl
theorem rrca : Statement .rrca := by
  intro _ rest
  show decodeOn .main 0x0F _ _ = (_, 1)
  rfl
theorem djnz (d : Byte) : Statement (.djnz d) := by
  intro _ rest
  show decodeOn .main 0x10 d _ = (_, 2)
  rfl
theorem ldDEindA : Statement .ldDEindA := by
  intro _ rest
  show decodeOn .main 0x12 _ _ = (_, 1)
  rfl
theorem rla : Statement .rla := by
  intro _ rest
  show decodeOn .main 0x17 _ _ = (_, 1)
  rfl
theorem jr (d : Byte) : Statement (.jr d) := by
  intro _ rest
  show decodeOn .main 0x18 d _ = (_, 2)
  rfl
theorem ldADEind : Statement .ldADEind := by
  intro _ rest
  show decodeOn .main 0x1A _ _ = (_, 1)
  rfl
theorem rra : Statement .rra := by
  intro _ rest
  show decodeOn .main 0x1F _ _ = (_, 1)
  rfl
theorem jrCc (cc : JrCond) (d : Byte) : Statement (.jrCc cc d) := by
  intro _ rest
  show decodeOn .main (opcodeByte 0 cc.code 0) d _ = (_, 2)
  cases cc <;> rfl
theorem ldNnindHL (nn : Word) : Statement (.ldNnindHL nn) := by
  intro _ rest
  show decodeOn .main 0x22 (lo nn) (hi nn) = (_, 3)
  exact congrArg (fun v => (Instr.ldNnindHL v, 3)) (imm16_lo_hi nn)
theorem daa : Statement .daa := by
  intro _ rest
  show decodeOn .main 0x27 _ _ = (_, 1)
  rfl
theorem ldHLNnind (nn : Word) : Statement (.ldHLNnind nn) := by
  intro _ rest
  show decodeOn .main 0x2A (lo nn) (hi nn) = (_, 3)
  exact congrArg (fun v => (Instr.ldHLNnind v, 3)) (imm16_lo_hi nn)
theorem cpl : Statement .cpl := by
  intro _ rest
  show decodeOn .main 0x2F _ _ = (_, 1)
  rfl
theorem ldNnindA (nn : Word) : Statement (.ldNnindA nn) := by
  intro _ rest
  show decodeOn .main 0x32 (lo nn) (hi nn) = (_, 3)
  exact congrArg (fun v => (Instr.ldNnindA v, 3)) (imm16_lo_hi nn)
theorem incHLind : Statement .incHLind := by
  intro _ rest
  show decodeOn .main 0x34 _ _ = (_, 1)
  rfl
theorem decHLind : Statement .decHLind := by
  intro _ rest
  show decodeOn .main 0x35 _ _ = (_, 1)
  rfl
theorem ldHLindN (n : Byte) : Statement (.ldHLindN n) := by
  intro _ rest
  show decodeOn .main 0x36 n _ = (_, 2)
  rfl
theorem scf : Statement .scf := by
  intro _ rest
  show decodeOn .main 0x37 _ _ = (_, 1)
  rfl
theorem ldANnind (nn : Word) : Statement (.ldANnind nn) := by
  intro _ rest
  show decodeOn .main 0x3A (lo nn) (hi nn) = (_, 3)
  exact congrArg (fun v => (Instr.ldANnind v, 3)) (imm16_lo_hi nn)
theorem ccf : Statement .ccf := by
  intro _ rest
  show decodeOn .main 0x3F _ _ = (_, 1)
  rfl
theorem ldRR (dst : Reg8) (src : Reg8) : Statement (.ldRR dst src) := by
  intro _ rest
  show decodeOn .main (opcodeByte 1 dst.code src.code) _ _ = (_, 1)
  cases dst <;> cases src <;> rfl
theorem ldRHLind (r : Reg8) : Statement (.ldRHLind r) := by
  intro _ rest
  show decodeOn .main (opcodeByte 1 r.code 6) _ _ = (_, 1)
  cases r <;> rfl
theorem ldHLindR (r : Reg8) : Statement (.ldHLindR r) := by
  intro _ rest
  show decodeOn .main (opcodeByte 1 6 r.code) _ _ = (_, 1)
  cases r <;> rfl
theorem halt : Statement .halt := by
  intro _ rest
  show decodeOn .main 0x76 _ _ = (_, 1)
  rfl
theorem addAR (r : Operand8) : Statement (.addAR r) := by
  intro _ rest
  show decodeOn .main (opcodeByte 2 0 r.code) _ _ = (_, 1)
  rcases r with (_ | _ | _ | _ | _ | _ | _) | _ <;> rfl
theorem adcAR (r : Operand8) : Statement (.adcAR r) := by
  intro _ rest
  show decodeOn .main (opcodeByte 2 1 r.code) _ _ = (_, 1)
  rcases r with (_ | _ | _ | _ | _ | _ | _) | _ <;> rfl
theorem subR (r : Operand8) : Statement (.subR r) := by
  intro _ rest
  show decodeOn .main (opcodeByte 2 2 r.code) _ _ = (_, 1)
  rcases r with (_ | _ | _ | _ | _ | _ | _) | _ <;> rfl
theorem sbcAR (r : Operand8) : Statement (.sbcAR r) := by
  intro _ rest
  show decodeOn .main (opcodeByte 2 3 r.code) _ _ = (_, 1)
  rcases r with (_ | _ | _ | _ | _ | _ | _) | _ <;> rfl
theorem andR (r : Operand8) : Statement (.andR r) := by
  intro _ rest
  show decodeOn .main (opcodeByte 2 4 r.code) _ _ = (_, 1)
  rcases r with (_ | _ | _ | _ | _ | _ | _) | _ <;> rfl
theorem xorR (r : Operand8) : Statement (.xorR r) := by
  intro _ rest
  show decodeOn .main (opcodeByte 2 5 r.code) _ _ = (_, 1)
  rcases r with (_ | _ | _ | _ | _ | _ | _) | _ <;> rfl
theorem orR (r : Operand8) : Statement (.orR r) := by
  intro _ rest
  show decodeOn .main (opcodeByte 2 6 r.code) _ _ = (_, 1)
  rcases r with (_ | _ | _ | _ | _ | _ | _) | _ <;> rfl
theorem cpR (r : Operand8) : Statement (.cpR r) := by
  intro _ rest
  show decodeOn .main (opcodeByte 2 7 r.code) _ _ = (_, 1)
  rcases r with (_ | _ | _ | _ | _ | _ | _) | _ <;> rfl
theorem retCc (cc : Cond) : Statement (.retCc cc) := by
  intro _ rest
  show decodeOn .main (opcodeByte 3 cc.code 0) _ _ = (_, 1)
  cases cc <;> rfl
theorem popRp2 (p : RpPush) : Statement (.popRp2 p) := by
  intro _ rest
  show decodeOn .main (opcodeByte 3 (2 * p.code) 1) _ _ = (_, 1)
  cases p <;> rfl
theorem jpCcNn (cc : Cond) (nn : Word) : Statement (.jpCcNn cc nn) := by
  intro _ rest
  show decodeOn .main (opcodeByte 3 cc.code 2) (lo nn) (hi nn) = (_, 3)
  cases cc <;> exact congrArg (fun v => (Instr.jpCcNn (_) v, 3)) (imm16_lo_hi nn)
theorem jpNn (nn : Word) : Statement (.jpNn nn) := by
  intro _ rest
  show decodeOn .main 0xC3 (lo nn) (hi nn) = (_, 3)
  exact congrArg (fun v => (Instr.jpNn v, 3)) (imm16_lo_hi nn)
theorem callCcNn (cc : Cond) (nn : Word) : Statement (.callCcNn cc nn) := by
  intro _ rest
  show decodeOn .main (opcodeByte 3 cc.code 4) (lo nn) (hi nn) = (_, 3)
  cases cc <;> exact congrArg (fun v => (Instr.callCcNn (_) v, 3)) (imm16_lo_hi nn)
theorem pushRp2 (p : RpPush) : Statement (.pushRp2 p) := by
  intro _ rest
  show decodeOn .main (opcodeByte 3 (2 * p.code) 5) _ _ = (_, 1)
  cases p <;> rfl
theorem addAN (n : Byte) : Statement (.addAN n) := by
  intro _ rest
  show decodeOn .main 0xC6 n _ = (_, 2)
  rfl
theorem rst (y : Fin 8) : Statement (.rst y) := by
  intro _ rest
  show decodeOn .main (opcodeByte 3 y.val 7) _ _ = (_, 1)
  fin_cases y <;> rfl
theorem ret : Statement .ret := by
  intro _ rest
  show decodeOn .main 0xC9 _ _ = (_, 1)
  rfl
theorem cbPrefix : Statement .cbPrefix := by
  intro _ rest
  show decodeOn .main 0xCB _ _ = (_, 1)
  rfl
theorem callNn (nn : Word) : Statement (.callNn nn) := by
  intro _ rest
  show decodeOn .main 0xCD (lo nn) (hi nn) = (_, 3)
  exact congrArg (fun v => (Instr.callNn v, 3)) (imm16_lo_hi nn)
theorem adcAN (n : Byte) : Statement (.adcAN n) := by
  intro _ rest
  show decodeOn .main 0xCE n _ = (_, 2)
  rfl
theorem outNA (n : Byte) : Statement (.outNA n) := by
  intro _ rest
  show decodeOn .main 0xD3 n _ = (_, 2)
  rfl
theorem subN (n : Byte) : Statement (.subN n) := by
  intro _ rest
  show decodeOn .main 0xD6 n _ = (_, 2)
  rfl
theorem exx : Statement .exx := by
  intro _ rest
  show decodeOn .main 0xD9 _ _ = (_, 1)
  rfl
theorem inAN (n : Byte) : Statement (.inAN n) := by
  intro _ rest
  show decodeOn .main 0xDB n _ = (_, 2)
  rfl
theorem ddPrefix : Statement .ddPrefix := by
  intro _ rest
  show decodeOn .main 0xDD _ _ = (_, 1)
  rfl
theorem sbcAN (n : Byte) : Statement (.sbcAN n) := by
  intro _ rest
  show decodeOn .main 0xDE n _ = (_, 2)
  rfl
theorem exSPindHL : Statement .exSPindHL := by
  intro _ rest
  show decodeOn .main 0xE3 _ _ = (_, 1)
  rfl
theorem andN (n : Byte) : Statement (.andN n) := by
  intro _ rest
  show decodeOn .main 0xE6 n _ = (_, 2)
  rfl
theorem jpHL : Statement .jpHL := by
  intro _ rest
  show decodeOn .main 0xE9 _ _ = (_, 1)
  rfl
theorem exDEHL : Statement .exDEHL := by
  intro _ rest
  show decodeOn .main 0xEB _ _ = (_, 1)
  rfl
theorem edPrefix : Statement .edPrefix := by
  intro _ rest
  show decodeOn .main 0xED _ _ = (_, 1)
  rfl
theorem xorN (n : Byte) : Statement (.xorN n) := by
  intro _ rest
  show decodeOn .main 0xEE n _ = (_, 2)
  rfl
theorem popAF : Statement .popAF := by
  intro _ rest
  show decodeOn .main 0xF1 _ _ = (_, 1)
  rfl
theorem di : Statement .di := by
  intro _ rest
  show decodeOn .main 0xF3 _ _ = (_, 1)
  rfl
theorem pushAF : Statement .pushAF := by
  intro _ rest
  show decodeOn .main 0xF5 _ _ = (_, 1)
  rfl
theorem orN (n : Byte) : Statement (.orN n) := by
  intro _ rest
  show decodeOn .main 0xF6 n _ = (_, 2)
  rfl
theorem ldSPHL : Statement .ldSPHL := by
  intro _ rest
  show decodeOn .main 0xF9 _ _ = (_, 1)
  rfl
theorem ei : Statement .ei := by
  intro _ rest
  show decodeOn .main 0xFB _ _ = (_, 1)
  rfl
theorem fdPrefix : Statement .fdPrefix := by
  intro _ rest
  show decodeOn .main 0xFD _ _ = (_, 1)
  rfl
theorem cpN (n : Byte) : Statement (.cpN n) := by
  intro _ rest
  show decodeOn .main 0xFE n _ = (_, 2)
  rfl
theorem rlcR (r : Operand8) : Statement (.rlcR r) := by
  intro _ rest
  show decodeOn .cb (opcodeByte 0 0 r.code) _ _ = (_, 1)
  rcases r with (_ | _ | _ | _ | _ | _ | _) | _ <;> rfl
theorem rrcR (r : Operand8) : Statement (.rrcR r) := by
  intro _ rest
  show decodeOn .cb (opcodeByte 0 1 r.code) _ _ = (_, 1)
  rcases r with (_ | _ | _ | _ | _ | _ | _) | _ <;> rfl
theorem rlR (r : Operand8) : Statement (.rlR r) := by
  intro _ rest
  show decodeOn .cb (opcodeByte 0 2 r.code) _ _ = (_, 1)
  rcases r with (_ | _ | _ | _ | _ | _ | _) | _ <;> rfl
theorem rrR (r : Operand8) : Statement (.rrR r) := by
  intro _ rest
  show decodeOn .cb (opcodeByte 0 3 r.code) _ _ = (_, 1)
  rcases r with (_ | _ | _ | _ | _ | _ | _) | _ <;> rfl
theorem slaR (r : Operand8) : Statement (.slaR r) := by
  intro _ rest
  show decodeOn .cb (opcodeByte 0 4 r.code) _ _ = (_, 1)
  rcases r with (_ | _ | _ | _ | _ | _ | _) | _ <;> rfl
theorem sraR (r : Operand8) : Statement (.sraR r) := by
  intro _ rest
  show decodeOn .cb (opcodeByte 0 5 r.code) _ _ = (_, 1)
  rcases r with (_ | _ | _ | _ | _ | _ | _) | _ <;> rfl
theorem sllR (r : Operand8) : Statement (.sllR r) := by
  intro _ rest
  show decodeOn .cb (opcodeByte 0 6 r.code) _ _ = (_, 1)
  rcases r with (_ | _ | _ | _ | _ | _ | _) | _ <;> rfl
theorem srlR (r : Operand8) : Statement (.srlR r) := by
  intro _ rest
  show decodeOn .cb (opcodeByte 0 7 r.code) _ _ = (_, 1)
  rcases r with (_ | _ | _ | _ | _ | _ | _) | _ <;> rfl
theorem bitBR (b : Fin 8) (r : Reg8) : Statement (.bitBR b r) := by
  intro _ rest
  show decodeOn .cb (opcodeByte 1 b.val r.code) _ _ = (_, 1)
  cases r <;> fin_cases b <;> rfl
theorem bitBHLind (b : Fin 8) : Statement (.bitBHLind b) := by
  intro _ rest
  show decodeOn .cb (opcodeByte 1 b.val 6) _ _ = (_, 1)
  fin_cases b <;> rfl
theorem resBR (b : Fin 8) (r : Reg8) : Statement (.resBR b r) := by
  intro _ rest
  show decodeOn .cb (opcodeByte 2 b.val r.code) _ _ = (_, 1)
  cases r <;> fin_cases b <;> rfl
theorem resBHLind (b : Fin 8) : Statement (.resBHLind b) := by
  intro _ rest
  show decodeOn .cb (opcodeByte 2 b.val 6) _ _ = (_, 1)
  fin_cases b <;> rfl
theorem setBR (b : Fin 8) (r : Reg8) : Statement (.setBR b r) := by
  intro _ rest
  show decodeOn .cb (opcodeByte 3 b.val r.code) _ _ = (_, 1)
  cases r <;> fin_cases b <;> rfl
theorem setBHLind (b : Fin 8) : Statement (.setBHLind b) := by
  intro _ rest
  show decodeOn .cb (opcodeByte 3 b.val 6) _ _ = (_, 1)
  fin_cases b <;> rfl
theorem inRC (r : Reg8) : Statement (.inRC r) := by
  intro _ rest
  show decodeOn .ed (opcodeByte 1 r.code 0) _ _ = (_, 1)
  cases r <;> rfl
theorem outCR (r : Reg8) : Statement (.outCR r) := by
  intro _ rest
  show decodeOn .ed (opcodeByte 1 r.code 1) _ _ = (_, 1)
  cases r <;> rfl
theorem sbcHLRp (p : Rp) : Statement (.sbcHLRp p) := by
  intro _ rest
  show decodeOn .ed (opcodeByte 1 (2 * p.code) 2) _ _ = (_, 1)
  cases p <;> rfl
theorem ldNnindRp (nn : Word) (p : Rp) : Statement (.ldNnindRp nn p) := by
  intro _ rest
  show decodeOn .ed (opcodeByte 1 (2 * p.code) 3) (lo nn) (hi nn) = (_, 3)
  cases p <;> exact congrArg (fun v => (Instr.ldNnindRp v (_), 3)) (imm16_lo_hi nn)
theorem neg : Statement .neg := by
  intro _ rest
  show decodeOn .ed 0x44 _ _ = (_, 1)
  rfl
theorem retn : Statement .retn := by
  intro _ rest
  show decodeOn .ed 0x45 _ _ = (_, 1)
  rfl
theorem im0 : Statement .im0 := by
  intro _ rest
  show decodeOn .ed 0x46 _ _ = (_, 1)
  rfl
theorem ldIA : Statement .ldIA := by
  intro _ rest
  show decodeOn .ed 0x47 _ _ = (_, 1)
  rfl
theorem adcHLRp (p : Rp) : Statement (.adcHLRp p) := by
  intro _ rest
  show decodeOn .ed (opcodeByte 1 (2 * p.code + 1) 2) _ _ = (_, 1)
  cases p <;> rfl
theorem ldRpNnind (p : Rp) (nn : Word) : Statement (.ldRpNnind p nn) := by
  intro _ rest
  show decodeOn .ed (opcodeByte 1 (2 * p.code + 1) 3) (lo nn) (hi nn) = (_, 3)
  cases p <;> exact congrArg (fun v => (Instr.ldRpNnind (_) v, 3)) (imm16_lo_hi nn)
theorem reti : Statement .reti := by
  intro _ rest
  show decodeOn .ed 0x4D _ _ = (_, 1)
  rfl
theorem ldRA : Statement .ldRA := by
  intro _ rest
  show decodeOn .ed 0x4F _ _ = (_, 1)
  rfl
theorem im1 : Statement .im1 := by
  intro _ rest
  show decodeOn .ed 0x56 _ _ = (_, 1)
  rfl
theorem ldAI : Statement .ldAI := by
  intro _ rest
  show decodeOn .ed 0x57 _ _ = (_, 1)
  rfl
theorem im2 : Statement .im2 := by
  intro _ rest
  show decodeOn .ed 0x5E _ _ = (_, 1)
  rfl
theorem ldAR : Statement .ldAR := by
  intro _ rest
  show decodeOn .ed 0x5F _ _ = (_, 1)
  rfl
theorem rrd : Statement .rrd := by
  intro _ rest
  show decodeOn .ed 0x67 _ _ = (_, 1)
  rfl
theorem rld : Statement .rld := by
  intro _ rest
  show decodeOn .ed 0x6F _ _ = (_, 1)
  rfl
theorem inFC : Statement .inFC := by
  intro _ rest
  show decodeOn .ed 0x70 _ _ = (_, 1)
  rfl
theorem outC0 : Statement .outC0 := by
  intro _ rest
  show decodeOn .ed 0x71 _ _ = (_, 1)
  rfl
theorem ldi : Statement .ldi := by
  intro _ rest
  show decodeOn .ed 0xA0 _ _ = (_, 1)
  rfl
theorem cpi : Statement .cpi := by
  intro _ rest
  show decodeOn .ed 0xA1 _ _ = (_, 1)
  rfl
theorem ini : Statement .ini := by
  intro _ rest
  show decodeOn .ed 0xA2 _ _ = (_, 1)
  rfl
theorem outi : Statement .outi := by
  intro _ rest
  show decodeOn .ed 0xA3 _ _ = (_, 1)
  rfl
theorem ldd : Statement .ldd := by
  intro _ rest
  show decodeOn .ed 0xA8 _ _ = (_, 1)
  rfl
theorem cpd : Statement .cpd := by
  intro _ rest
  show decodeOn .ed 0xA9 _ _ = (_, 1)
  rfl
theorem ind : Statement .ind := by
  intro _ rest
  show decodeOn .ed 0xAA _ _ = (_, 1)
  rfl
theorem outd : Statement .outd := by
  intro _ rest
  show decodeOn .ed 0xAB _ _ = (_, 1)
  rfl
theorem ldir : Statement .ldir := by
  intro _ rest
  show decodeOn .ed 0xB0 _ _ = (_, 1)
  rfl
theorem cpir : Statement .cpir := by
  intro _ rest
  show decodeOn .ed 0xB1 _ _ = (_, 1)
  rfl
theorem inir : Statement .inir := by
  intro _ rest
  show decodeOn .ed 0xB2 _ _ = (_, 1)
  rfl
theorem otir : Statement .otir := by
  intro _ rest
  show decodeOn .ed 0xB3 _ _ = (_, 1)
  rfl
theorem lddr : Statement .lddr := by
  intro _ rest
  show decodeOn .ed 0xB8 _ _ = (_, 1)
  rfl
theorem cpdr : Statement .cpdr := by
  intro _ rest
  show decodeOn .ed 0xB9 _ _ = (_, 1)
  rfl
theorem indr : Statement .indr := by
  intro _ rest
  show decodeOn .ed 0xBA _ _ = (_, 1)
  rfl
theorem otdr : Statement .otdr := by
  intro _ rest
  show decodeOn .ed 0xBB _ _ = (_, 1)
  rfl
theorem addIXRr (p : RpIndex) : Statement (.addIXRr p) := by
  intro _ rest
  show decodeOn .ix (opcodeByte 0 (2 * p.code + 1) 1) _ _ = (_, 1)
  cases p <;> rfl
theorem ldIXNn (nn : Word) : Statement (.ldIXNn nn) := by
  intro _ rest
  show decodeOn .ix 0x21 (lo nn) (hi nn) = (_, 3)
  exact congrArg (fun v => (Instr.ldIXNn v, 3)) (imm16_lo_hi nn)
theorem ldNnindIX (nn : Word) : Statement (.ldNnindIX nn) := by
  intro _ rest
  show decodeOn .ix 0x22 (lo nn) (hi nn) = (_, 3)
  exact congrArg (fun v => (Instr.ldNnindIX v, 3)) (imm16_lo_hi nn)
theorem incIX : Statement .incIX := by
  intro _ rest
  show decodeOn .ix 0x23 _ _ = (_, 1)
  rfl
theorem ldIXNnind (nn : Word) : Statement (.ldIXNnind nn) := by
  intro _ rest
  show decodeOn .ix 0x2A (lo nn) (hi nn) = (_, 3)
  exact congrArg (fun v => (Instr.ldIXNnind v, 3)) (imm16_lo_hi nn)
theorem decIX : Statement .decIX := by
  intro _ rest
  show decodeOn .ix 0x2B _ _ = (_, 1)
  rfl
theorem incIXd (d : Byte) : Statement (.incIXd d) := by
  intro _ rest
  show decodeOn .ix 0x34 d _ = (_, 2)
  rfl
theorem decIXd (d : Byte) : Statement (.decIXd d) := by
  intro _ rest
  show decodeOn .ix 0x35 d _ = (_, 2)
  rfl
theorem ldIXdN (d : Byte) (n : Byte) : Statement (.ldIXdN d n) := by
  intro _ rest
  show decodeOn .ix 0x36 d n = (_, 3)
  rfl
theorem ldRIXd (r : Reg8) (d : Byte) : Statement (.ldRIXd r d) := by
  intro _ rest
  show decodeOn .ix (opcodeByte 1 r.code 6) d _ = (_, 2)
  cases r <;> rfl
theorem ldIXdR (d : Byte) (r : Reg8) : Statement (.ldIXdR d r) := by
  intro _ rest
  show decodeOn .ix (opcodeByte 1 6 r.code) d _ = (_, 2)
  cases r <;> rfl
theorem addAIXd (d : Byte) : Statement (.addAIXd d) := by
  intro _ rest
  show decodeOn .ix 0x86 d _ = (_, 2)
  rfl
theorem adcAIXd (d : Byte) : Statement (.adcAIXd d) := by
  intro _ rest
  show decodeOn .ix 0x8E d _ = (_, 2)
  rfl
theorem subIXd (d : Byte) : Statement (.subIXd d) := by
  intro _ rest
  show decodeOn .ix 0x96 d _ = (_, 2)
  rfl
theorem sbcAIXd (d : Byte) : Statement (.sbcAIXd d) := by
  intro _ rest
  show decodeOn .ix 0x9E d _ = (_, 2)
  rfl
theorem andIXd (d : Byte) : Statement (.andIXd d) := by
  intro _ rest
  show decodeOn .ix 0xA6 d _ = (_, 2)
  rfl
theorem xorIXd (d : Byte) : Statement (.xorIXd d) := by
  intro _ rest
  show decodeOn .ix 0xAE d _ = (_, 2)
  rfl
theorem orIXd (d : Byte) : Statement (.orIXd d) := by
  intro _ rest
  show decodeOn .ix 0xB6 d _ = (_, 2)
  rfl
theorem cpIXd (d : Byte) : Statement (.cpIXd d) := by
  intro _ rest
  show decodeOn .ix 0xBE d _ = (_, 2)
  rfl
theorem ddPrefixAfterDd : Statement .ddPrefixAfterDd := by
  intro _ rest
  show decodeOn .ix 0xDD _ _ = (_, 1)
  rfl
theorem popIX : Statement .popIX := by
  intro _ rest
  show decodeOn .ix 0xE1 _ _ = (_, 1)
  rfl
theorem exSPindIX : Statement .exSPindIX := by
  intro _ rest
  show decodeOn .ix 0xE3 _ _ = (_, 1)
  rfl
theorem pushIX : Statement .pushIX := by
  intro _ rest
  show decodeOn .ix 0xE5 _ _ = (_, 1)
  rfl
theorem jpIX : Statement .jpIX := by
  intro _ rest
  show decodeOn .ix 0xE9 _ _ = (_, 1)
  rfl
theorem edPrefixAfterDd : Statement .edPrefixAfterDd := by
  intro _ rest
  show decodeOn .ix 0xED _ _ = (_, 1)
  rfl
theorem ldSPIX : Statement .ldSPIX := by
  intro _ rest
  show decodeOn .ix 0xF9 _ _ = (_, 1)
  rfl
theorem fdPrefixAfterDd : Statement .fdPrefixAfterDd := by
  intro _ rest
  show decodeOn .ix 0xFD _ _ = (_, 1)
  rfl
theorem rotIXdR (o : Rot) (d : Byte) (r : Reg8) : Statement (.rotIXdR o d r) := by
  intro _ rest
  show decodeOn .ix 0xCB d (opcodeByte 0 o.code r.code) = (_, 3)
  cases o <;> cases r <;> rfl
theorem rotIXd (o : Rot) (d : Byte) : Statement (.rotIXd o d) := by
  intro _ rest
  show decodeOn .ix 0xCB d (opcodeByte 0 o.code 6) = (_, 3)
  cases o <;> rfl
theorem bitIXd (b : Fin 8) (d : Byte) : Statement (.bitIXd b d) := by
  intro _ rest
  show decodeOn .ix 0xCB d (opcodeByte 1 b.val 6) = (_, 3)
  fin_cases b <;> rfl
theorem resIXdR (b : Fin 8) (d : Byte) (r : Reg8) : Statement (.resIXdR b d r) := by
  intro _ rest
  show decodeOn .ix 0xCB d (opcodeByte 2 b.val r.code) = (_, 3)
  cases r <;> fin_cases b <;> rfl
theorem resIXd (b : Fin 8) (d : Byte) : Statement (.resIXd b d) := by
  intro _ rest
  show decodeOn .ix 0xCB d (opcodeByte 2 b.val 6) = (_, 3)
  fin_cases b <;> rfl
theorem setIXdR (b : Fin 8) (d : Byte) (r : Reg8) : Statement (.setIXdR b d r) := by
  intro _ rest
  show decodeOn .ix 0xCB d (opcodeByte 3 b.val r.code) = (_, 3)
  cases r <;> fin_cases b <;> rfl
theorem setIXd (b : Fin 8) (d : Byte) : Statement (.setIXd b d) := by
  intro _ rest
  show decodeOn .ix 0xCB d (opcodeByte 3 b.val 6) = (_, 3)
  fin_cases b <;> rfl
theorem addIYRr (p : RpIndex) : Statement (.addIYRr p) := by
  intro _ rest
  show decodeOn .iy (opcodeByte 0 (2 * p.code + 1) 1) _ _ = (_, 1)
  cases p <;> rfl
theorem ldIYNn (nn : Word) : Statement (.ldIYNn nn) := by
  intro _ rest
  show decodeOn .iy 0x21 (lo nn) (hi nn) = (_, 3)
  exact congrArg (fun v => (Instr.ldIYNn v, 3)) (imm16_lo_hi nn)
theorem ldNnindIY (nn : Word) : Statement (.ldNnindIY nn) := by
  intro _ rest
  show decodeOn .iy 0x22 (lo nn) (hi nn) = (_, 3)
  exact congrArg (fun v => (Instr.ldNnindIY v, 3)) (imm16_lo_hi nn)
theorem incIY : Statement .incIY := by
  intro _ rest
  show decodeOn .iy 0x23 _ _ = (_, 1)
  rfl
theorem ldIYNnind (nn : Word) : Statement (.ldIYNnind nn) := by
  intro _ rest
  show decodeOn .iy 0x2A (lo nn) (hi nn) = (_, 3)
  exact congrArg (fun v => (Instr.ldIYNnind v, 3)) (imm16_lo_hi nn)
theorem decIY : Statement .decIY := by
  intro _ rest
  show decodeOn .iy 0x2B _ _ = (_, 1)
  rfl
theorem incIYd (d : Byte) : Statement (.incIYd d) := by
  intro _ rest
  show decodeOn .iy 0x34 d _ = (_, 2)
  rfl
theorem decIYd (d : Byte) : Statement (.decIYd d) := by
  intro _ rest
  show decodeOn .iy 0x35 d _ = (_, 2)
  rfl
theorem ldIYdN (d : Byte) (n : Byte) : Statement (.ldIYdN d n) := by
  intro _ rest
  show decodeOn .iy 0x36 d n = (_, 3)
  rfl
theorem ldRIYd (r : Reg8) (d : Byte) : Statement (.ldRIYd r d) := by
  intro _ rest
  show decodeOn .iy (opcodeByte 1 r.code 6) d _ = (_, 2)
  cases r <;> rfl
theorem ldIYdR (d : Byte) (r : Reg8) : Statement (.ldIYdR d r) := by
  intro _ rest
  show decodeOn .iy (opcodeByte 1 6 r.code) d _ = (_, 2)
  cases r <;> rfl
theorem addAIYd (d : Byte) : Statement (.addAIYd d) := by
  intro _ rest
  show decodeOn .iy 0x86 d _ = (_, 2)
  rfl
theorem adcAIYd (d : Byte) : Statement (.adcAIYd d) := by
  intro _ rest
  show decodeOn .iy 0x8E d _ = (_, 2)
  rfl
theorem subIYd (d : Byte) : Statement (.subIYd d) := by
  intro _ rest
  show decodeOn .iy 0x96 d _ = (_, 2)
  rfl
theorem sbcAIYd (d : Byte) : Statement (.sbcAIYd d) := by
  intro _ rest
  show decodeOn .iy 0x9E d _ = (_, 2)
  rfl
theorem andIYd (d : Byte) : Statement (.andIYd d) := by
  intro _ rest
  show decodeOn .iy 0xA6 d _ = (_, 2)
  rfl
theorem xorIYd (d : Byte) : Statement (.xorIYd d) := by
  intro _ rest
  show decodeOn .iy 0xAE d _ = (_, 2)
  rfl
theorem orIYd (d : Byte) : Statement (.orIYd d) := by
  intro _ rest
  show decodeOn .iy 0xB6 d _ = (_, 2)
  rfl
theorem cpIYd (d : Byte) : Statement (.cpIYd d) := by
  intro _ rest
  show decodeOn .iy 0xBE d _ = (_, 2)
  rfl
theorem ddPrefixAfterFd : Statement .ddPrefixAfterFd := by
  intro _ rest
  show decodeOn .iy 0xDD _ _ = (_, 1)
  rfl
theorem popIY : Statement .popIY := by
  intro _ rest
  show decodeOn .iy 0xE1 _ _ = (_, 1)
  rfl
theorem exSPindIY : Statement .exSPindIY := by
  intro _ rest
  show decodeOn .iy 0xE3 _ _ = (_, 1)
  rfl
theorem pushIY : Statement .pushIY := by
  intro _ rest
  show decodeOn .iy 0xE5 _ _ = (_, 1)
  rfl
theorem jpIY : Statement .jpIY := by
  intro _ rest
  show decodeOn .iy 0xE9 _ _ = (_, 1)
  rfl
theorem edPrefixAfterFd : Statement .edPrefixAfterFd := by
  intro _ rest
  show decodeOn .iy 0xED _ _ = (_, 1)
  rfl
theorem ldSPIY : Statement .ldSPIY := by
  intro _ rest
  show decodeOn .iy 0xF9 _ _ = (_, 1)
  rfl
theorem fdPrefixAfterFd : Statement .fdPrefixAfterFd := by
  intro _ rest
  show decodeOn .iy 0xFD _ _ = (_, 1)
  rfl
theorem rotIYdR (o : Rot) (d : Byte) (r : Reg8) : Statement (.rotIYdR o d r) := by
  intro _ rest
  show decodeOn .iy 0xCB d (opcodeByte 0 o.code r.code) = (_, 3)
  cases o <;> cases r <;> rfl
theorem rotIYd (o : Rot) (d : Byte) : Statement (.rotIYd o d) := by
  intro _ rest
  show decodeOn .iy 0xCB d (opcodeByte 0 o.code 6) = (_, 3)
  cases o <;> rfl
theorem bitIYd (b : Fin 8) (d : Byte) : Statement (.bitIYd b d) := by
  intro _ rest
  show decodeOn .iy 0xCB d (opcodeByte 1 b.val 6) = (_, 3)
  fin_cases b <;> rfl
theorem resIYdR (b : Fin 8) (d : Byte) (r : Reg8) : Statement (.resIYdR b d r) := by
  intro _ rest
  show decodeOn .iy 0xCB d (opcodeByte 2 b.val r.code) = (_, 3)
  cases r <;> fin_cases b <;> rfl
theorem resIYd (b : Fin 8) (d : Byte) : Statement (.resIYd b d) := by
  intro _ rest
  show decodeOn .iy 0xCB d (opcodeByte 2 b.val 6) = (_, 3)
  fin_cases b <;> rfl
theorem setIYdR (b : Fin 8) (d : Byte) (r : Reg8) : Statement (.setIYdR b d r) := by
  intro _ rest
  show decodeOn .iy 0xCB d (opcodeByte 3 b.val r.code) = (_, 3)
  cases r <;> fin_cases b <;> rfl
theorem setIYd (b : Fin 8) (d : Byte) : Statement (.setIYd b d) := by
  intro _ rest
  show decodeOn .iy 0xCB d (opcodeByte 3 b.val 6) = (_, 3)
  fin_cases b <;> rfl

end Sys2Proof.Laws.RoundTrip
end

