-- ==== Sys2Proof/Laws/Run.lean ====
section
/-!
SUPPORT. What decoding, fetching and one step do, once each: the bytes that select a page, an instruction at the end of a
run of them, the cases of a step, and R's count.
-/
namespace Sys2Proof

/-! ### Decoding -/

/-- The page a byte selects where it stands on page `p` (R120, R121); none if it begins an instruction there. -/
def pageSelected (p : Page) (b : Byte) : Option Page :=
  match p with
  | .main => if b = 0xCB then some .cb else if b = 0xED then some .ed else if b = 0xDD then some .ix
      else if b = 0xFD then some .iy else none
  | .cb => none
  | .ed => none
  | .ix => if b = 0xED then some .ed else if b = 0xDD then some .ix else if b = 0xFD then some .iy else none
  | .iy => if b = 0xED then some .ed else if b = 0xDD then some .ix else if b = 0xFD then some .iy else none

theorem decodeIXCb_selects (d op : Byte) : (decodeIXCb d op).selects = none := by
  unfold decodeIXCb
  split <;> rfl

theorem decodeIYCb_selects (d op : Byte) : (decodeIYCb d op).selects = none := by
  unfold decodeIYCb
  split <;> rfl

/-- `decodeOn_shape` as a computation on one byte. -/
def shapeOk (p : Page) (b0 b1 b2 : Byte) : Bool :=
  decide ((decodeOn p b0 b1 b2).1.selects = pageSelected p b0) &&
    (!(pageSelected p b0).isSome || (decodeOn p b0 b1 b2).2 == 1) &&
    Nat.ble 1 (decodeOn p b0 b1 b2).2 && Nat.ble (decodeOn p b0 b1 b2).2 3

set_option maxRecDepth 100000 in
theorem shapeOk_main (b1 b2 : Byte) : (List.range 256).all (fun k => shapeOk .main (BitVec.ofNat 8 k) b1 b2) = true := rfl

set_option maxRecDepth 100000 in
theorem shapeOk_ed (b1 b2 : Byte) : (List.range 256).all (fun k => shapeOk .ed (BitVec.ofNat 8 k) b1 b2) = true := rfl

set_option maxRecDepth 100000 in
theorem shapeOk_ix (b1 b2 : Byte) :
    (List.range 256).all (fun k => k == 0xCB || shapeOk .ix (BitVec.ofNat 8 k) b1 b2) = true := rfl

set_option maxRecDepth 100000 in
theorem shapeOk_iy (b1 b2 : Byte) :
    (List.range 256).all (fun k => k == 0xCB || shapeOk .iy (BitVec.ofNat 8 k) b1 b2) = true := rfl

/-- A CB page opcode begins an instruction. -/
theorem decodeCb_selects (op : Byte) : (decodeCb op).selects = none := by
  unfold decodeCb decodeRotR
  repeat' split
  all_goals rfl

/-- What is read at a byte selects the page that the byte alone says, takes one byte if it does, and one to three bytes in
any case. -/
theorem decodeOn_shape (p : Page) (b0 b1 b2 : Byte) :
    (decodeOn p b0 b1 b2).1.selects = pageSelected p b0 ∧
    ((pageSelected p b0).isSome = true → (decodeOn p b0 b1 b2).2 = 1) ∧
    1 ≤ (decodeOn p b0 b1 b2).2 ∧ (decodeOn p b0 b1 b2).2 ≤ 3 := by
  have of_ok : shapeOk p b0 b1 b2 = true → _ := fun h => by
    simp only [shapeOk, Bool.and_eq_true, Bool.or_eq_true, decide_eq_true_eq, Nat.ble_eq, Bool.not_eq_true',
      beq_iff_eq] at h
    exact (⟨h.1.1.1, fun e => h.1.1.2.resolve_left (by simp [e]), h.1.2, h.2⟩ :
      (decodeOn p b0 b1 b2).1.selects = pageSelected p b0 ∧
      ((pageSelected p b0).isSome = true → (decodeOn p b0 b1 b2).2 = 1) ∧
      1 ≤ (decodeOn p b0 b1 b2).2 ∧ (decodeOn p b0 b1 b2).2 ≤ 3)
  have mem : b0.toNat ∈ List.range 256 := List.mem_range.mpr b0.isLt
  have self : BitVec.ofNat 8 b0.toNat = b0 := by simp
  cases p with
  | main => exact of_ok (self ▸ List.all_eq_true.mp (shapeOk_main b1 b2) _ mem)
  | cb => exact ⟨decodeCb_selects b0, fun _ => rfl, Nat.le_refl 1, by show 1 ≤ 3; decide⟩
  | ed => exact of_ok (self ▸ List.all_eq_true.mp (shapeOk_ed b1 b2) _ mem)
  | ix =>
    rcases Bool.or_eq_true_iff.mp (List.all_eq_true.mp (shapeOk_ix b1 b2) _ mem) with h | h
    · obtain rfl : b0 = 0xCB := by rw [← self, beq_iff_eq.mp h]; rfl
      exact ⟨decodeIXCb_selects b1 b2, fun h => absurd h (by decide), by show 1 ≤ 3; decide, Nat.le_refl 3⟩
    · exact of_ok (self ▸ h)
  | iy =>
    rcases Bool.or_eq_true_iff.mp (List.all_eq_true.mp (shapeOk_iy b1 b2) _ mem) with h | h
    · obtain rfl : b0 = 0xCB := by rw [← self, beq_iff_eq.mp h]; rfl
      exact ⟨decodeIYCb_selects b1 b2, fun h => absurd h (by decide), by show 1 ≤ 3; decide, Nat.le_refl 3⟩
    · exact of_ok (self ▸ h)

/-- An instruction at the head: it is decoded, if its bytes are all there. -/
theorem decodeFrom_instr {fuel : Nat} {p : Page} {b : Byte} {rest : List Byte} (h : pageSelected p b = none) :
    decodeFrom (fuel + 1) p (b :: rest) =
      if rest.length + 1 < (decodeOn p b (rest.getD 0 0) (rest.getD 1 0)).2 then .error .truncated
      else .ok ⟨(decodeOn p b (rest.getD 0 0) (rest.getD 1 0)).1, (decodeOn p b (rest.getD 0 0) (rest.getD 1 0)).2, 1⟩ := by
  rw [← (decodeOn_shape p b (rest.getD 0 0) (rest.getD 1 0)).1] at h
  rw [decodeFrom]
  simp only [h]

/-- A byte that selects a page: the rest is decoded there, one byte and one fetch longer. -/
theorem decodeFrom_page {fuel : Nat} {p q : Page} {b : Byte} {rest : List Byte} (h : pageSelected p b = some q) :
    decodeFrom (fuel + 1) p (b :: rest) =
      (decodeFrom fuel q rest).map fun r => { r with len := r.len + 1, fetches := r.fetches + 1 } := by
  rw [← (decodeOn_shape p b (rest.getD 0 0) (rest.getD 1 0)).1] at h
  rw [decodeFrom]
  simp only [h]
  cases decodeFrom fuel q rest <;> rfl

/-- A term that selects a page is one of the ten. -/
theorem selects_cases {i : Instr} (h : i.selects ≠ none) :
    i = .cbPrefix ∨ i = .edPrefix ∨ i = .ddPrefix ∨ i = .fdPrefix ∨ i = .ddPrefixAfterDd ∨ i = .ddPrefixAfterFd ∨
      i = .fdPrefixAfterDd ∨ i = .fdPrefixAfterFd ∨ i = .edPrefixAfterDd ∨ i = .edPrefixAfterFd := by
  cases i <;> first | exact absurd rfl h | simp

namespace Machine

/-! ### R -/

/-- R's count (R31). -/
theorem RCounts_nextR (r : Byte) : RCounts r (nextR r) 1 := by
  have key : ∀ k : Fin 256, (nextR (BitVec.ofFin k : Byte)).toNat / 128 = (BitVec.ofFin k : Byte).toNat / 128 ∧
      (nextR (BitVec.ofFin k : Byte)).toNat % 128 = ((BitVec.ofFin k : Byte).toNat + 1) % 128 := by
    intro k
    fin_cases k <;> exact ⟨rfl, rfl⟩
  exact key r.toFin

theorem RCounts_trans {r r' r'' : Byte} {j k : Nat} (h : RCounts r r' j) (h' : RCounts r' r'' k) :
    RCounts r r'' (j + k) := by
  obtain ⟨h1, h2⟩ := h
  obtain ⟨h3, h4⟩ := h'
  exact ⟨h3.trans h1, by omega⟩

/-! ### Fetching one instruction -/

/-- A byte that selects a page has no effect of its own. -/
theorem exec_selects {i : Instr} (h : i.selects ≠ none) (s : State) : exec i s = .next s := by
  rcases selects_cases h with e | e | e | e | e | e | e | e | e | e <;> subst e <;> rfl

/-- Reading a byte depends on memory alone. -/
theorem State.readByte_of_mem {s t : State} (h : t.mem = s.mem) (a : Word) : t.readByte a = s.readByte a := by
  rw [State.readByte, h]
  rfl

/-- An instruction stands at pc: the frame of R10, then its meaning. -/
theorem runInstr_instr {fuel : Nat} {p : Page} {s : State} (h : pageSelected p (s.readByte s.pc) = none) :
    runInstr (fuel + 1) p s = exec (s.fetch p).1 (s.advance (s.fetch p).2) := by
  have := (decodeOn_shape p (s.readByte s.pc) (s.readByte (s.pc + 1)) (s.readByte (s.pc + 2))).1.trans h
  rw [runInstr]
  simp only [State.fetch] at *
  simp only [this]

/-- A byte that selects a page stands at pc: it is passed over. -/
theorem runInstr_page {fuel : Nat} {p q : Page} {s : State} (h : pageSelected p (s.readByte s.pc) = some q) :
    runInstr (fuel + 1) p s = runInstr fuel q (s.advance 1) := by
  obtain ⟨h1, h2, -⟩ := decodeOn_shape p (s.readByte s.pc) (s.readByte (s.pc + 1)) (s.readByte (s.pc + 2))
  have sel := h1.trans h
  have len := h2 (by rw [h]; rfl)
  rw [runInstr]
  simp only [State.fetch] at *
  rw [len, exec_selects (by rw [sel]; simp)]
  simp only [sel]

/-! ### One step -/

theorem State.sampled_of_quiet {s : State} (h1 : s.boundary.nmi = false) (h2 : s.nmiPending = false) :
    s.sampled = { s with inputs := s.inputs.tail } := by
  rw [State.sampled_eq, h1, h2]
  cases s
  simp_all

theorem State.acceptsInt_iff (s : State) (level : Bool) :
    s.acceptsInt level = true ↔ level = true ∧ s.iff1 = true ∧ s.eiPending = false := by
  simp [State.acceptsInt, and_assoc]

theorem State.Undisturbed.acceptsInt {s : State} (h : s.Undisturbed) : s.acceptsInt s.boundary.int = false := by
  cases e : s.acceptsInt s.boundary.int with
  | false => rfl
  | true =>
    obtain ⟨h1, h2, h3⟩ := (State.acceptsInt_iff _ _).mp e
    rw [h.noInt h1 h2] at h3
    exact absurd h3 (by decide)

/-- A reset at the boundary. -/
theorem step_reset {s : State} (h : s.boundary.reset = true) : step s = .next s.sampled.resetAction := by
  simp only [step, runStep, h, if_true]

/-- No reset, and a non-maskable interrupt. -/
theorem step_nmi {s : State} (h : s.boundary.reset = false) (h1 : s.boundary.nmi = true ∨ s.nmiPending = true) :
    step s = .next s.sampled.nmiEntry := by
  have : s.sampled.nmiPending = true := by
    rw [State.sampled_eq]
    rcases h1 with e | e <;> simp [e]
  simp [step, runStep, h, this]

/-- Neither, and a maskable interrupt is accepted. -/
theorem step_int {s : State} (h : s.boundary.reset = false) (h1 : s.boundary.nmi = false) (h2 : s.nmiPending = false)
    (h3 : s.acceptsInt s.boundary.int = true) :
    step s = ({ s with inputs := s.inputs.tail } : State).intEntry s.boundary.busByte := by
  rw [step, runStep, if_neg (ne_true_of_eq_false h), State.sampled_of_quiet h1 h2, if_neg (ne_true_of_eq_false h2)]
  exact if_pos h3

/-- None of these, and the machine is halted. -/
theorem step_halted {s : State} (h : s.boundary.reset = false) (h1 : s.boundary.nmi = false) (h2 : s.nmiPending = false)
    (h3 : s.acceptsInt s.boundary.int = false) (h4 : s.halted = true) :
    step s = .next { s with inputs := s.inputs.tail, r := nextR s.r } := by
  rw [step, runStep, if_neg (ne_true_of_eq_false h), State.sampled_of_quiet h1 h2, if_neg (ne_true_of_eq_false h2)]
  exact (if_neg (ne_true_of_eq_false h3)).trans (if_pos h4)

/-- Nothing at the boundary: an instruction. -/
theorem step_undisturbed {s : State} (h : s.Undisturbed) :
    step s = runInstr prefixFuel .main { s with inputs := s.inputs.tail } := by
  rw [step, runStep, if_neg (ne_true_of_eq_false h.noReset), State.sampled_of_quiet h.noNmi h.noLatch,
    if_neg (ne_true_of_eq_false h.noLatch)]
  exact (if_neg (ne_true_of_eq_false h.acceptsInt)).trans (if_neg (ne_true_of_eq_false h.running))

/-- Everything a step can do. -/
theorem step_cases (s : State) :
    (s.boundary.reset = true ∧ step s = .next s.sampled.resetAction) ∨
    (s.boundary.reset = false ∧ (s.boundary.nmi = true ∨ s.nmiPending = true) ∧ step s = .next s.sampled.nmiEntry) ∨
    (s.boundary.reset = false ∧ s.acceptsInt s.boundary.int = true ∧
      step s = ({ s with inputs := s.inputs.tail } : State).intEntry s.boundary.busByte) ∨
    (s.boundary.reset = false ∧ s.halted = true ∧
      step s = .next { s with inputs := s.inputs.tail, r := nextR s.r }) ∨
    (s.Undisturbed ∧ step s = runInstr prefixFuel .main { s with inputs := s.inputs.tail }) := by
  cases h : s.boundary.reset with
  | true => exact .inl ⟨rfl, step_reset h⟩
  | false =>
    by_cases h1 : s.boundary.nmi = true ∨ s.nmiPending = true
    · exact .inr (.inl ⟨rfl, h1, step_nmi h h1⟩)
    · have h2 : s.boundary.nmi = false := by simpa using fun e => h1 (.inl e)
      have h3 : s.nmiPending = false := by simpa using fun e => h1 (.inr e)
      cases h4 : s.acceptsInt s.boundary.int with
      | true => exact .inr (.inr (.inl ⟨rfl, rfl, step_int h h2 h3 h4⟩))
      | false =>
        rcases Bool.eq_false_or_eq_true s.halted with h5 | h5
        · exact .inr (.inr (.inr (.inl ⟨rfl, h5, step_halted h h2 h3 h4 h5⟩)))
        · have u : s.Undisturbed := ⟨h, h2, h3, fun e e' => by
            by_contra c
            have := (State.acceptsInt_iff s s.boundary.int).mpr ⟨e, e', by simpa using c⟩
            rw [h4] at this
            exact absurd this (by decide), h5⟩
          exact .inr (.inr (.inr (.inr ⟨u, step_undisturbed u⟩)))

end Machine
end Sys2Proof
end

