-- ==== Sys2Proof/Tests/Slice0.lean ====
section
/-!
SUPPORT. Tests: ill-formed terms refused, every constructor's decoding and encoding on a word written out from the spec's
encoding tables, single steps whose expected results are those of spec/95_test_vectors.md part B, and for every statement
with hypotheses a state and operands that meet them.
-/
namespace Sys2Proof.Tests
open Sys2Proof.Machine

/-! ### Well-formedness: ill-formed terms are refused -/

/-- ED 44 is NEG, so it is no unlisted opcode. -/
theorem test_wf_edListed : (Instr.edUnlisted 0x44).wf = false ∧ (Instr.edUnlisted 0x54).wf = true := by decide
/-- DD 21 is LD IX, nn. -/
theorem test_wf_ixAdmitted : (Instr.ixUnlisted 0x21 0x34 0x12).wf = false ∧ (Instr.ixUnlisted 0x01 0x34 0x12).wf = true := by
  decide
/-- A byte that selects a page is no unlisted opcode. -/
theorem test_wf_ixPrefix : (Instr.ixUnlisted 0xCB 0x00 0x00).wf = false := by decide
/-- NOP has no operand byte. -/
theorem test_wf_ixFirstOperand : (Instr.ixUnlisted 0x00 0x01 0x00).wf = false := by decide
/-- LD A, n has one operand byte. -/
theorem test_wf_ixSecondOperand : (Instr.ixUnlisted 0x3E 0x01 0x01).wf = false ∧ (Instr.ixUnlisted 0x3E 0x01 0x00).wf = true := by
  decide
theorem test_wf_iyAdmitted : (Instr.iyUnlisted 0xE9 0x00 0x00).wf = false := by decide
theorem test_wf_iyPrefix : (Instr.iyUnlisted 0xFD 0x00 0x00).wf = false := by decide
theorem test_wf_iyFirstOperand : (Instr.iyUnlisted 0x76 0x01 0x00).wf = false := by decide
theorem test_wf_iySecondOperand : (Instr.iyUnlisted 0x10 0xFE 0x01).wf = false := by decide

/-! ### Decoding and encoding, one written-out word for each constructor -/

/-- The bytes decode to the instruction and no other, are all of it, and are what the encoder writes. -/
def reads (p : List Byte × Instr) : Bool :=
  match decode p.1 with
  | .ok d => d.instr == p.2 && d.len == p.1.length && encode p.2 == p.1
  | .error _ => false

/-- spec/40_main_x0.md, spec/30_encoding.md R140. -/
theorem test_decode_main_x0 :
    ([
      ([0x00], .nop), ([0x01, 0x34, 0x12], .ldRpNn .bc 0x1234), ([0x31, 0xFE, 0xFF], .ldRpNn .sp 0xFFFE),
      ([0x02], .ldBCindA), ([0x13], .incRp .de), ([0x0C], .incR .c), ([0x3C], .incR .a), ([0x2D], .decR .l),
      ([0x26, 0x80], .ldRN .h 0x80), ([0x07], .rlca), ([0x08], .exAFAF), ([0x29], .addHLRp .hl),
      ([0x0A], .ldABCind), ([0x3B], .decRp .sp), ([0x0F], .rrca), ([0x10, 0xFE], .djnz 0xFE), ([0x12], .ldDEindA),
      ([0x17], .rla), ([0x18, 0x7F], .jr 0x7F), ([0x1A], .ldADEind), ([0x1F], .rra), ([0x20, 0x10], .jrCc .nz 0x10),
      ([0x28, 0x10], .jrCc .z 0x10), ([0x30, 0x10], .jrCc .nc 0x10), ([0x38, 0x10], .jrCc .c 0x10),
      ([0x22, 0x00, 0x40], .ldNnindHL 0x4000), ([0x27], .daa), ([0x2A, 0x00, 0x40], .ldHLNnind 0x4000),
      ([0x2F], .cpl), ([0x32, 0x00, 0x40], .ldNnindA 0x4000), ([0x34], .incHLind), ([0x35], .decHLind),
      ([0x36, 0x5A], .ldHLindN 0x5A), ([0x37], .scf), ([0x3A, 0x00, 0x40], .ldANnind 0x4000), ([0x3F], .ccf)] :
      List (List Byte × Instr)).all reads = true := by decide

/-- spec/41_main_x1_ld_halt.md, spec/42_main_x2_alu.md. -/
theorem test_decode_main_x1_x2 :
    ([
      ([0x41], .ldRR .b .c), ([0x7D], .ldRR .a .l), ([0x5E], .ldRHLind .e), ([0x72], .ldHLindR .d), ([0x76], .halt),
      ([0x80], .addAR (.reg .b)), ([0x86], .addAR .hlInd), ([0x89], .adcAR (.reg .c)), ([0x92], .subR (.reg .d)),
      ([0x9B], .sbcAR (.reg .e)), ([0xA4], .andR (.reg .h)), ([0xAD], .xorR (.reg .l)), ([0xB6], .orR .hlInd),
      ([0xBF], .cpR (.reg .a))] :
      List (List Byte × Instr)).all reads = true := by decide

/-- spec/43_main_x3.md. -/
theorem test_decode_main_x3 :
    ([
      ([0xC0], .retCc .nz), ([0xE8], .retCc .pe), ([0xC1], .popRp2 .bc), ([0xD1], .popRp2 .de),
      ([0xE1], .popRp2 .hl), ([0xF1], .popAF), ([0xC9], .ret), ([0xD9], .exx), ([0xE9], .jpHL), ([0xF9], .ldSPHL),
      ([0xE2, 0x00, 0x90], .jpCcNn .po 0x9000), ([0xC3, 0x34, 0x12], .jpNn 0x1234), ([0xD3, 0x7F], .outNA 0x7F),
      ([0xDB, 0xFE], .inAN 0xFE), ([0xE3], .exSPindHL), ([0xEB], .exDEHL), ([0xF3], .di), ([0xFB], .ei),
      ([0xF4, 0x00, 0x90], .callCcNn .p 0x9000), ([0xFC, 0x00, 0x90], .callCcNn .m 0x9000), ([0xD5], .pushRp2 .de),
      ([0xF5], .pushAF), ([0xCD, 0x00, 0x90], .callNn 0x9000), ([0xC6, 0x01], .addAN 0x01),
      ([0xCE, 0x01], .adcAN 0x01), ([0xD6, 0x01], .subN 0x01), ([0xDE, 0x01], .sbcAN 0x01),
      ([0xE6, 0x01], .andN 0x01), ([0xEE, 0x01], .xorN 0x01), ([0xF6, 0x01], .orN 0x01), ([0xFE, 0x01], .cpN 0x01),
      ([0xEF], .rst 5)] :
      List (List Byte × Instr)).all reads = true := by decide

/-- spec/44_cb_prefix.md. -/
theorem test_decode_cb :
    ([
      ([0xCB, 0x00], .rlcR (.reg .b)), ([0xCB, 0x09], .rrcR (.reg .c)), ([0xCB, 0x12], .rlR (.reg .d)),
      ([0xCB, 0x1B], .rrR (.reg .e)), ([0xCB, 0x24], .slaR (.reg .h)), ([0xCB, 0x2D], .sraR (.reg .l)),
      ([0xCB, 0x36], .sllR .hlInd), ([0xCB, 0x3F], .srlR (.reg .a)), ([0xCB, 0x47], .bitBR 0 .a),
      ([0xCB, 0x7E], .bitBHLind 7), ([0xCB, 0x99], .resBR 3 .c), ([0xCB, 0x9E], .resBHLind 3),
      ([0xCB, 0xF8], .setBR 7 .b), ([0xCB, 0xF6], .setBHLind 6)] :
      List (List Byte × Instr)).all reads = true := by decide

/-- spec/45_ed_extended.md. -/
theorem test_decode_ed :
    ([
      ([0xED, 0x50], .inRC .d), ([0xED, 0x79], .outCR .a), ([0xED, 0x42], .sbcHLRp .bc),
      ([0xED, 0x7A], .adcHLRp .sp), ([0xED, 0x53, 0x00, 0x40], .ldNnindRp 0x4000 .de),
      ([0xED, 0x6B, 0x00, 0x40], .ldRpNnind .hl 0x4000), ([0xED, 0x44], .neg), ([0xED, 0x45], .retn),
      ([0xED, 0x4D], .reti), ([0xED, 0x46], .im0), ([0xED, 0x56], .im1), ([0xED, 0x5E], .im2),
      ([0xED, 0x47], .ldIA), ([0xED, 0x4F], .ldRA), ([0xED, 0x57], .ldAI), ([0xED, 0x5F], .ldAR),
      ([0xED, 0x67], .rrd), ([0xED, 0x6F], .rld), ([0xED, 0x70], .inFC), ([0xED, 0x71], .outC0),
      ([0xED, 0x54], .edUnlisted 0x54), ([0xED, 0x00], .edUnlisted 0x00), ([0xED, 0xA4], .edUnlisted 0xA4)] :
      List (List Byte × Instr)).all reads = true := by decide

/-- spec/46_ed_block.md. -/
theorem test_decode_block :
    ([
      ([0xED, 0xA0], .ldi), ([0xED, 0xA1], .cpi), ([0xED, 0xA2], .ini), ([0xED, 0xA3], .outi), ([0xED, 0xA8], .ldd),
      ([0xED, 0xA9], .cpd), ([0xED, 0xAA], .ind), ([0xED, 0xAB], .outd), ([0xED, 0xB0], .ldir),
      ([0xED, 0xB1], .cpir), ([0xED, 0xB2], .inir), ([0xED, 0xB3], .otir), ([0xED, 0xB8], .lddr),
      ([0xED, 0xB9], .cpdr), ([0xED, 0xBA], .indr), ([0xED, 0xBB], .otdr)] :
      List (List Byte × Instr)).all reads = true := by decide

/-- spec/47_dd_fd_index.md R450, R480; spec/48_ddcb_fdcb.md R500 to R505. -/
theorem test_decode_ix :
    ([
      ([0xDD, 0x21, 0x34, 0x12], .ldIXNn 0x1234), ([0xDD, 0x22, 0x00, 0x40], .ldNnindIX 0x4000),
      ([0xDD, 0x2A, 0x00, 0x40], .ldIXNnind 0x4000), ([0xDD, 0x23], .incIX), ([0xDD, 0x2B], .decIX),
      ([0xDD, 0x09], .addIXRr .bc), ([0xDD, 0x29], .addIXRr .xy), ([0xDD, 0x39], .addIXRr .sp),
      ([0xDD, 0x34, 0x05], .incIXd 0x05), ([0xDD, 0x35, 0xFF], .decIXd 0xFF),
      ([0xDD, 0x36, 0x02, 0x5A], .ldIXdN 0x02 0x5A), ([0xDD, 0x66, 0x01], .ldRIXd .h 0x01),
      ([0xDD, 0x7E, 0xFE], .ldRIXd .a 0xFE), ([0xDD, 0x75, 0x01], .ldIXdR 0x01 .l),
      ([0xDD, 0x86, 0x01], .addAIXd 0x01), ([0xDD, 0x8E, 0x01], .adcAIXd 0x01), ([0xDD, 0x96, 0x01], .subIXd 0x01),
      ([0xDD, 0x9E, 0x01], .sbcAIXd 0x01), ([0xDD, 0xA6, 0x01], .andIXd 0x01), ([0xDD, 0xAE, 0x01], .xorIXd 0x01),
      ([0xDD, 0xB6, 0x01], .orIXd 0x01), ([0xDD, 0xBE, 0x01], .cpIXd 0x01), ([0xDD, 0xE1], .popIX),
      ([0xDD, 0xE3], .exSPindIX), ([0xDD, 0xE5], .pushIX), ([0xDD, 0xE9], .jpIX), ([0xDD, 0xF9], .ldSPIX),
      ([0xDD, 0xCB, 0x05, 0x06], .rotIXd .rlc 0x05), ([0xDD, 0xCB, 0x05, 0x31], .rotIXdR .sll 0x05 .c),
      ([0xDD, 0xCB, 0x10, 0x6E], .bitIXd 5 0x10), ([0xDD, 0xCB, 0x02, 0x9E], .resIXd 3 0x02),
      ([0xDD, 0xCB, 0x02, 0x9F], .resIXdR 3 0x02 .a), ([0xDD, 0xCB, 0xFE, 0xFE], .setIXd 7 0xFE),
      ([0xDD, 0xCB, 0x00, 0xED], .setIXdR 5 0x00 .l), ([0xDD, 0x24], .ixUnlisted 0x24 0x00 0x00),
      ([0xDD, 0x01, 0x34, 0x12], .ixUnlisted 0x01 0x34 0x12), ([0xDD, 0x10, 0xFE], .ixUnlisted 0x10 0xFE 0x00)] :
      List (List Byte × Instr)).all reads = true := by decide

/-- spec/47_dd_fd_index.md R450, R480; spec/48_ddcb_fdcb.md R500 to R505. -/
theorem test_decode_iy :
    ([
      ([0xFD, 0x21, 0x34, 0x12], .ldIYNn 0x1234), ([0xFD, 0x22, 0x00, 0x40], .ldNnindIY 0x4000),
      ([0xFD, 0x2A, 0x00, 0x40], .ldIYNnind 0x4000), ([0xFD, 0x23], .incIY), ([0xFD, 0x2B], .decIY),
      ([0xFD, 0x09], .addIYRr .bc), ([0xFD, 0x29], .addIYRr .xy), ([0xFD, 0x39], .addIYRr .sp),
      ([0xFD, 0x34, 0x05], .incIYd 0x05), ([0xFD, 0x35, 0xFF], .decIYd 0xFF),
      ([0xFD, 0x36, 0x02, 0x5A], .ldIYdN 0x02 0x5A), ([0xFD, 0x66, 0x01], .ldRIYd .h 0x01),
      ([0xFD, 0x7E, 0xFE], .ldRIYd .a 0xFE), ([0xFD, 0x75, 0x01], .ldIYdR 0x01 .l),
      ([0xFD, 0x86, 0x01], .addAIYd 0x01), ([0xFD, 0x8E, 0x01], .adcAIYd 0x01), ([0xFD, 0x96, 0x01], .subIYd 0x01),
      ([0xFD, 0x9E, 0x01], .sbcAIYd 0x01), ([0xFD, 0xA6, 0x01], .andIYd 0x01), ([0xFD, 0xAE, 0x01], .xorIYd 0x01),
      ([0xFD, 0xB6, 0x01], .orIYd 0x01), ([0xFD, 0xBE, 0x01], .cpIYd 0x01), ([0xFD, 0xE1], .popIY),
      ([0xFD, 0xE3], .exSPindIY), ([0xFD, 0xE5], .pushIY), ([0xFD, 0xE9], .jpIY), ([0xFD, 0xF9], .ldSPIY),
      ([0xFD, 0xCB, 0x05, 0x06], .rotIYd .rlc 0x05), ([0xFD, 0xCB, 0x05, 0x31], .rotIYdR .sll 0x05 .c),
      ([0xFD, 0xCB, 0x10, 0x6E], .bitIYd 5 0x10), ([0xFD, 0xCB, 0x02, 0x9E], .resIYd 3 0x02),
      ([0xFD, 0xCB, 0x02, 0x9F], .resIYdR 3 0x02 .a), ([0xFD, 0xCB, 0xFE, 0xFE], .setIYd 7 0xFE),
      ([0xFD, 0xCB, 0x00, 0xED], .setIYdR 5 0x00 .l), ([0xFD, 0x24], .iyUnlisted 0x24 0x00 0x00),
      ([0xFD, 0x01, 0x34, 0x12], .iyUnlisted 0x01 0x34 0x12), ([0xFD, 0x10, 0xFE], .iyUnlisted 0x10 0xFE 0x00)] :
      List (List Byte × Instr)).all reads = true := by decide

/-- Second encodings: NEG and IM 0 (R146), BIT b, (IX+d) with another z (R502), and overridden or ignored page bytes (R121). -/
theorem test_decode_second_spellings :
    decode [0xED, 0x4C] = .ok ⟨.neg, 2, 2⟩ ∧ decode [0xED, 0x4E] = .ok ⟨.im0, 2, 2⟩ ∧
    decode [0xDD, 0xCB, 0x10, 0x68] = .ok ⟨.bitIXd 5 0x10, 4, 2⟩ ∧
    decode [0xFD, 0xDD, 0xFD, 0x23] = .ok ⟨.incIY, 4, 4⟩ ∧ decode [0xDD, 0xED, 0x44] = .ok ⟨.neg, 3, 3⟩ := by decide

/-- Bytes that end inside an instruction hold none. -/
theorem test_decode_truncated :
    decode [] = .error .truncated ∧ decode [0xC3, 0x34] = .error .truncated ∧ decode [0xDD, 0xFD] = .error .truncated ∧
    decode [0xDD, 0xCB, 0x00] = .error .truncated := by decide

/-- The bytes that select a page, as rows of the opcode table (R318, R121). -/
theorem test_decode_prefixes :
    decodeTableWord 8 0xCB = some .cbPrefix ∧ decodeTableWord 8 0xDD = some .ddPrefix ∧
    decodeTableWord 8 0xED = some .edPrefix ∧ decodeTableWord 8 0xFD = some .fdPrefix ∧
    decodeTableWord 16 0xDDDD = some .ddPrefixAfterDd ∧ decodeTableWord 16 0xEDDD = some .edPrefixAfterDd ∧
    decodeTableWord 16 0xFDDD = some .fdPrefixAfterDd ∧ decodeTableWord 16 0xDDFD = some .ddPrefixAfterFd ∧
    decodeTableWord 16 0xEDFD = some .edPrefixAfterFd ∧ decodeTableWord 16 0xFDFD = some .fdPrefixAfterFd := by decide

/-- Words of the opcode table, the first byte least significant; what the table gives no bits to is 0. -/
theorem test_decode_table_words :
    decodeTableWord 8 0x01 = some (.ldRpNn .bc 0x0000) ∧ decodeTableWord 16 0x44ED = some .neg ∧
    decodeTableWord 32 0xC600CBDD = some (.setIXd 0 0x00) ∧ decodeTableWord 16 0x36FD = some (.ldIYdN 0x00 0x00) := by
  decide

/-! ### Single steps: bytes, state before and values after are those of a row of spec/95_test_vectors.md, B.1 to B.10 -/

/-- The conditions before each vector of spec/95_test_vectors.md: every register 00, SP = 8000, memory all 00. -/
def base : State := { State.reset with main := Bank.resetAlt, sp := 0x8000 }

/-- Bytes stored from an address on. -/
def place (a : Word) : List Byte → State → State
  | [], s => s
  | b :: bs, s => place (a + 1) bs (s.writeByte a b)

/-- The next state, if the answer is one. -/
def nextOf (r : Result) : Option State :=
  match r with
  | .next t => some t
  | .fault _ => none
  | .refused _ => none

/-- The refusal, if the answer is one. -/
def refusalOf (r : Result) : Option Refusal :=
  match r with
  | .next _ => none
  | .fault _ => none
  | .refused e => some e

/-- The state after the step that runs the instruction whose bytes these are. -/
def one (bs : List Byte) (s : State) : Option State := nextOf (step (place s.pc bs s))

/-- F without Y and X, which are free values by default after the XY-open set (R44): the column "F&D7". -/
def fixed (t : State) : Byte := ({ t.main.f with y := false, x := false } : Flags).toByte

/-- The settings that follow silicon. -/
def onSilicon (s : State) : State :=
  { s with
    cfg :=
      { Params.default with edUnlisted := .silicon, idxUnlisted := .silicon, xyOpen := .silicon, blockIoFlags := .silicon } }

theorem test_nop :
    (one [0x00] ((base.setReg .a 0x12).setF (Flags.ofByte 0xFF))).map (fun t => t.r) = some 0x01 := by decide
theorem test_djnz :
    (one [0x10, 0xFE] ((base.setReg .b 0x02).setF (Flags.ofByte 0xFF))).map
      (fun t => (t.main.b, t.pc)) = some (0x01, 0x0000) := by decide
theorem test_jr :
    (one [0x18, 0x7F] base).map (fun t => t.pc) = some 0x0081 := by decide
theorem test_jrCc :
    (one [0x20, 0x10] (base.setF (Flags.ofByte 0x00))).map (fun t => t.pc) = some 0x0012 := by decide
theorem test_ldRpNn :
    (one [0x31, 0xFE, 0xFF] base).map (fun t => t.sp) = some 0xFFFE := by decide
theorem test_addHLRp :
    (one [0x09] (((base.setHl 0x0FFF).setBc 0x0001).setF (Flags.ofByte 0xC4))).map
      (fun t => (fixed t, t.rp .hl, t.pc)) = some (0xD4, 0x1000, 0x0001) := by decide
theorem test_ldBCindA :
    (one [0x02] ((base.setReg .a 0x5A).setBc 0x4000)).map (fun t => t.readByte 0x4000) = some 0x5A := by decide
theorem test_ldDEindA :
    (one [0x12] ((base.setReg .a 0xA5).setDe 0xFFFF)).map (fun t => t.readByte 0xFFFF) = some 0xA5 := by decide
theorem test_ldNnindHL :
    (one [0x22, 0xFF, 0xFF] (base.setHl 0xABCD)).map
      (fun t => (t.readByte 0x0000, t.readByte 0xFFFF)) = some (0xAB, 0xCD) := by decide
theorem test_ldNnindA :
    (one [0x32, 0x00, 0x40] (base.setReg .a 0x77)).map (fun t => t.readByte 0x4000) = some 0x77 := by decide
theorem test_ldABCind :
    (one [0x0A] ((base.setBc 0x4000).writeByte 0x4000 0x99)).map (fun t => t.main.a) = some 0x99 := by decide
theorem test_ldADEind :
    (one [0x1A] ((base.setDe 0x4001).writeByte 0x4001 0x42)).map (fun t => t.main.a) = some 0x42 := by decide
theorem test_ldHLNnind :
    (one [0x2A, 0x00, 0x40] ((base.writeByte 0x4000 0xCD).writeByte 0x4001 0xAB)).map
      (fun t => (t.rp .hl, t.pc)) = some (0xABCD, 0x0003) := by decide
theorem test_ldANnind :
    (one [0x3A, 0x00, 0x40] (base.writeByte 0x4000 0x31)).map (fun t => t.main.a) = some 0x31 := by decide
theorem test_incRp :
    (one [0x03] ((base.setBc 0xFFFF).setF (Flags.ofByte 0x00))).map
      (fun t => (t.rp .bc, t.pc)) = some (0x0000, 0x0001) := by decide
theorem test_decRp :
    (one [0x0B] ((base.setBc 0x0000).setF (Flags.ofByte 0xFF))).map
      (fun t => (t.rp .bc, t.pc)) = some (0xFFFF, 0x0001) := by decide
theorem test_incR :
    (one [0x04] ((base.setReg .b 0x7F).setF (Flags.ofByte 0x01))).map
      (fun t => (t.main.b, t.main.f.toByte)) = some (0x80, 0x95) := by decide
theorem test_incHLind :
    (one [0x34] (((base.setHl 0x4000).setF (Flags.ofByte 0x00)).writeByte 0x4000 0x27)).map
      (fun t => (t.main.f.toByte, t.readByte 0x4000)) = some (0x28, 0x28) := by decide
theorem test_decR :
    (one [0x05] ((base.setReg .b 0x80).setF (Flags.ofByte 0x00))).map
      (fun t => (t.main.b, t.main.f.toByte)) = some (0x7F, 0x3E) := by decide
theorem test_decHLind :
    (one [0x35] (((base.setHl 0x4000).setF (Flags.ofByte 0x00)).writeByte 0x4000 0x10)).map
      (fun t => (t.main.f.toByte, t.readByte 0x4000)) = some (0x1A, 0x0F) := by decide
theorem test_ldRN :
    (one [0x06, 0xAB] (base.setF (Flags.ofByte 0xFF))).map (fun t => t.main.b) = some 0xAB := by decide
theorem test_ldHLindN :
    (one [0x36, 0x5A] (base.setHl 0x4000)).map (fun t => t.readByte 0x4000) = some 0x5A := by decide
theorem test_rlca :
    (one [0x07] ((base.setReg .a 0x81).setF (Flags.ofByte 0xC4))).map
      (fun t => (t.main.a, t.main.f.toByte)) = some (0x03, 0xC5) := by decide
theorem test_rrca :
    (one [0x0F] ((base.setReg .a 0x01).setF (Flags.ofByte 0x00))).map
      (fun t => (t.main.a, t.main.f.toByte)) = some (0x80, 0x01) := by decide
theorem test_rla :
    (one [0x17] ((base.setReg .a 0x80).setF (Flags.ofByte 0x00))).map
      (fun t => (t.main.a, t.main.f.toByte)) = some (0x00, 0x01) := by decide
theorem test_rra :
    (one [0x1F] ((base.setReg .a 0x01).setF (Flags.ofByte 0x00))).map
      (fun t => (t.main.a, t.main.f.toByte)) = some (0x00, 0x01) := by decide
theorem test_daa :
    (one [0x27] ((base.setReg .a 0x12).setF (Flags.ofByte 0x10))).map
      (fun t => (t.main.a, t.main.f.toByte)) = some (0x18, 0x0C) := by decide
theorem test_cpl :
    (one [0x2F] ((base.setReg .a 0x5A).setF (Flags.ofByte 0x01))).map
      (fun t => (t.main.a, t.main.f.toByte)) = some (0xA5, 0x33) := by decide
theorem test_scf :
    (one [0x37] ((base.setReg .a 0x00).setF (Flags.ofByte 0xD6))).map
      (fun t => (fixed t, t.pc)) = some (0xC5, 0x0001) := by decide
theorem test_ccf :
    (one [0x3F] ((base.setReg .a 0x00).setF (Flags.ofByte 0x01))).map
      (fun t => (fixed t, t.pc)) = some (0x10, 0x0001) := by decide
theorem test_ldRR :
    (one [0x41] (((base.setReg .b 0x11).setReg .c 0x22).setF (Flags.ofByte 0xFF))).map
      (fun t => t.main.b) = some 0x22 := by decide
theorem test_ldRHLind :
    (one [0x46] ((base.setHl 0x4000).writeByte 0x4000 0x3C)).map (fun t => t.main.b) = some 0x3C := by decide
theorem test_ldHLindR :
    (one [0x70] ((base.setHl 0x4000).setReg .b 0xEE)).map (fun t => t.readByte 0x4000) = some 0xEE := by decide
theorem test_halt :
    (one [0x76] (base.setF (Flags.ofByte 0xFF))).map (fun t => (t.r, t.halted)) = some (0x01, true) := by decide
theorem test_addAR :
    (one [0x80] (((base.setReg .a 0x44).setReg .b 0x11).setF (Flags.ofByte 0xFF))).map
      (fun t => (t.main.a, t.main.f.toByte)) = some (0x55, 0x00) := by decide
theorem test_adcAR :
    (one [0x88] (((base.setReg .a 0x0F).setReg .b 0x00).setF (Flags.ofByte 0x01))).map
      (fun t => (t.main.a, t.main.f.toByte)) = some (0x10, 0x10) := by decide
theorem test_subR :
    (one [0x90] (((base.setReg .a 0x44).setReg .b 0x11).setF (Flags.ofByte 0x00))).map
      (fun t => (t.main.a, t.main.f.toByte)) = some (0x33, 0x22) := by decide
theorem test_sbcAR :
    (one [0x98] (((base.setReg .a 0x00).setReg .b 0x00).setF (Flags.ofByte 0x01))).map
      (fun t => (t.main.a, t.main.f.toByte)) = some (0xFF, 0xBB) := by decide
theorem test_andR :
    (one [0xA0] (((base.setReg .a 0xF0).setReg .b 0x3C).setF (Flags.ofByte 0x03))).map
      (fun t => (t.main.a, t.main.f.toByte)) = some (0x30, 0x34) := by decide
theorem test_xorR :
    (one [0xA8] (((base.setReg .a 0xFF).setReg .b 0x0F).setF (Flags.ofByte 0xFF))).map
      (fun t => (t.main.a, t.main.f.toByte)) = some (0xF0, 0xA4) := by decide
theorem test_orR :
    (one [0xB0] (((base.setReg .a 0x80).setReg .b 0x03).setF (Flags.ofByte 0xFF))).map
      (fun t => (t.main.a, t.main.f.toByte)) = some (0x83, 0x80) := by decide
theorem test_cpR :
    (one [0xB8] (((base.setReg .a 0x00).setReg .b 0x01).setF (Flags.ofByte 0x00))).map
      (fun t => (fixed t, t.pc)) = some (0x93, 0x0001) := by decide
theorem test_retCc :
    (one [0xE8] ((((base.setPc 0x0100).setF (Flags.ofByte 0x04)).writeByte 0x8000 0x34).writeByte 0x8001 0x12)).map
      (fun t => (t.sp, t.pc)) = some (0x8002, 0x1234) := by decide
theorem test_popRp2 :
    (one [0xC1] ((base.writeByte 0x8000 0x34).writeByte 0x8001 0x12)).map
      (fun t => (t.rp .bc, t.sp)) = some (0x1234, 0x8002) := by decide
theorem test_popAF :
    (one [0xF1] ((base.writeByte 0x8000 0xFF).writeByte 0x8001 0x12)).map
      (fun t => (t.main.a, t.sp, t.main.f.toByte)) = some (0x12, 0x8002, 0xFF) := by decide
theorem test_ret :
    (one [0xC9] (((base.setPc 0x0100).writeByte 0x8000 0x34).writeByte 0x8001 0x12)).map
      (fun t => (t.sp, t.pc)) = some (0x8002, 0x1234) := by decide
theorem test_jpHL :
    (one [0xE9] (((base.setHl 0x4000).writeByte 0x4000 0x99).writeByte 0x4001 0x88)).map
      (fun t => t.pc) = some 0x4000 := by decide
theorem test_ldSPHL :
    (one [0xF9] (base.setHl 0x9000)).map (fun t => t.sp) = some 0x9000 := by decide
theorem test_jpCcNn :
    (one [0xC2, 0x00, 0x90] (base.setF (Flags.ofByte 0x00))).map (fun t => t.pc) = some 0x9000 := by decide
theorem test_jpNn :
    (one [0xC3, 0x34, 0x12] base).map (fun t => t.pc) = some 0x1234 := by decide
theorem test_outNA :
    (one [0xD3, 0x7F] (base.setReg .a 0x12)).map
      (fun t => (t.io, t.pc)) = some ([.write 0x127F 0x12], 0x0002) := by decide
theorem test_inAN :
    (one [0xDB, 0x7F] (((base.setReg .a 0x12).setF (Flags.ofByte 0x00)).setPortIn [0x80])).map
      (fun t => t.main.a) = some 0x80 := by decide
theorem test_exSPindHL :
    (one [0xE3] (((base.setHl 0xABCD).writeByte 0x8000 0x34).writeByte 0x8001 0x12)).map
      (fun t => (t.rp .hl, t.readByte 0x8000, t.readByte 0x8001)) = some (0x1234, 0xCD, 0xAB) := by decide
theorem test_exDEHL :
    (one [0xEB] (((base.setDe 0x1111).setHl 0x2222).setF (Flags.ofByte 0xFF))).map
      (fun t => (t.rp .de, t.rp .hl, t.pc)) = some (0x2222, 0x1111, 0x0001) := by decide
theorem test_di :
    (one [0xF3] ((base.setIff1 true).setIff2 true)).map
      (fun t => (t.iff1, t.iff2)) = some (false, false) := by decide
theorem test_ei :
    (one [0xFB] ((base.setIff1 false).setIff2 false)).map
      (fun t => (t.iff1, t.iff2)) = some (true, true) := by decide
theorem test_callCcNn :
    (one [0xC4, 0x00, 0x90] ((base.setPc 0x0100).setF (Flags.ofByte 0x00))).map
      (fun t => (t.sp, t.pc, t.readByte 0x7FFE, t.readByte 0x7FFF)) = some (0x7FFE, 0x9000, 0x03, 0x01) := by decide
theorem test_pushRp2 :
    (one [0xC5] (base.setBc 0x1234)).map
      (fun t => (t.sp, t.readByte 0x7FFE, t.readByte 0x7FFF)) = some (0x7FFE, 0x34, 0x12) := by decide
theorem test_pushAF :
    (one [0xF5] ((base.setReg .a 0x12).setF (Flags.ofByte 0xFF))).map
      (fun t => (t.sp, t.readByte 0x7FFE, t.readByte 0x7FFF)) = some (0x7FFE, 0xFF, 0x12) := by decide
theorem test_callNn :
    (one [0xCD, 0x00, 0x90] (base.setPc 0xFFFE)).map
      (fun t => (t.sp, t.pc, t.readByte 0x7FFE, t.readByte 0x7FFF)) = some (0x7FFE, 0x9000, 0x01, 0x00) := by decide
theorem test_addAN :
    (one [0xC6, 0x01] ((base.setReg .a 0xFF).setF (Flags.ofByte 0x00))).map
      (fun t => (t.main.a, t.main.f.toByte)) = some (0x00, 0x51) := by decide
theorem test_adcAN :
    (one [0xCE, 0x00] ((base.setReg .a 0xFF).setF (Flags.ofByte 0x01))).map
      (fun t => (t.main.a, t.main.f.toByte)) = some (0x00, 0x51) := by decide
theorem test_subN :
    (one [0xD6, 0x01] ((base.setReg .a 0x00).setF (Flags.ofByte 0x00))).map
      (fun t => (t.main.a, t.main.f.toByte)) = some (0xFF, 0xBB) := by decide
theorem test_sbcAN :
    (one [0xDE, 0x00] ((base.setReg .a 0x00).setF (Flags.ofByte 0x01))).map
      (fun t => (t.main.a, t.main.f.toByte)) = some (0xFF, 0xBB) := by decide
theorem test_andN :
    (one [0xE6, 0x0F] ((base.setReg .a 0xA5).setF (Flags.ofByte 0x01))).map
      (fun t => (t.main.a, t.main.f.toByte)) = some (0x05, 0x14) := by decide
theorem test_xorN :
    (one [0xEE, 0xFF] ((base.setReg .a 0xA5).setF (Flags.ofByte 0x01))).map
      (fun t => (t.main.a, t.main.f.toByte)) = some (0x5A, 0x0C) := by decide
theorem test_orN :
    (one [0xF6, 0x00] ((base.setReg .a 0x00).setF (Flags.ofByte 0x01))).map
      (fun t => t.main.f.toByte) = some 0x44 := by decide
theorem test_cpN :
    (one [0xFE, 0x28] ((base.setReg .a 0x28).setF (Flags.ofByte 0x00))).map
      (fun t => (fixed t, t.pc)) = some (0x42, 0x0002) := by decide
theorem test_rst :
    (one [0xC7] (base.setPc 0x1234)).map
      (fun t => (t.sp, t.pc, t.readByte 0x7FFE, t.readByte 0x7FFF)) = some (0x7FFE, 0x0000, 0x35, 0x12) := by decide
theorem test_rlcR :
    (one [0xCB, 0x06] (((base.setHl 0x4000).setF (Flags.ofByte 0x00)).writeByte 0x4000 0x81)).map
      (fun t => (t.main.f.toByte, t.readByte 0x4000)) = some (0x05, 0x03) := by decide
theorem test_rrcR :
    (one [0xCB, 0x09] ((base.setReg .c 0x01).setF (Flags.ofByte 0x00))).map
      (fun t => (t.main.c, t.main.f.toByte)) = some (0x80, 0x81) := by decide
theorem test_rlR :
    (one [0xCB, 0x12] ((base.setReg .d 0x80).setF (Flags.ofByte 0x00))).map
      (fun t => (t.main.d, t.main.f.toByte)) = some (0x00, 0x45) := by decide
theorem test_rrR :
    (one [0xCB, 0x1B] ((base.setReg .e 0x01).setF (Flags.ofByte 0x01))).map
      (fun t => (t.main.e, t.main.f.toByte)) = some (0x80, 0x81) := by decide
theorem test_slaR :
    (one [0xCB, 0x24] ((base.setReg .h 0xC0).setF (Flags.ofByte 0x00))).map
      (fun t => (t.main.h, t.main.f.toByte)) = some (0x80, 0x81) := by decide
theorem test_sraR :
    (one [0xCB, 0x2D] ((base.setReg .l 0x81).setF (Flags.ofByte 0x00))).map
      (fun t => (t.main.l, t.main.f.toByte)) = some (0xC0, 0x85) := by decide
theorem test_sllR :
    (one [0xCB, 0x36] (((base.setHl 0x4000).setF (Flags.ofByte 0x00)).writeByte 0x4000 0x7F)).map
      (fun t => (t.main.f.toByte, t.readByte 0x4000)) = some (0xAC, 0xFF) := by decide
theorem test_srlR :
    (one [0xCB, 0x3E] (((base.setHl 0x4000).setF (Flags.ofByte 0x00)).writeByte 0x4000 0xFF)).map
      (fun t => (t.main.f.toByte, t.readByte 0x4000)) = some (0x29, 0x7F) := by decide
theorem test_bitBR :
    (one [0xCB, 0x40] ((base.setReg .b 0x01).setF (Flags.ofByte 0x01))).map
      (fun t => (fixed t, t.pc)) = some (0x11, 0x0002) := by decide
theorem test_bitBHLind :
    (one [0xCB, 0x6E] (((base.setHl 0x4000).setF (Flags.ofByte 0x00)).writeByte 0x4000 0x20)).map
      (fun t => (fixed t, t.pc)) = some (0x10, 0x0002) := by decide
theorem test_resBR :
    (one [0xCB, 0x80] ((base.setReg .b 0xFF).setF (Flags.ofByte 0xFF))).map
      (fun t => t.main.b) = some 0xFE := by decide
theorem test_resBHLind :
    (one [0xCB, 0x9E] ((base.setHl 0x4000).writeByte 0x4000 0xFF)).map
      (fun t => t.readByte 0x4000) = some 0xF7 := by decide
theorem test_setBR :
    (one [0xCB, 0xC0] ((base.setReg .b 0x00).setF (Flags.ofByte 0x00))).map
      (fun t => t.main.b) = some 0x01 := by decide
theorem test_setBHLind :
    (one [0xCB, 0xF6] ((base.setHl 0x4000).writeByte 0x4000 0x01)).map
      (fun t => t.readByte 0x4000) = some 0x41 := by decide
theorem test_inRC :
    (one [0xED, 0x40] (((base.setBc 0x1234).setF (Flags.ofByte 0x01)).setPortIn [0x00])).map
      (fun t => (t.main.b, t.main.f.toByte)) = some (0x00, 0x45) := by decide
theorem test_inFC :
    (one [0xED, 0x70] (((base.setBc 0x00FE).setF (Flags.ofByte 0x01)).setPortIn [0x81])).map
      (fun t => t.main.f.toByte) = some 0x85 := by decide
theorem test_outCR :
    (one [0xED, 0x41] ((base.setBc 0x1234).setF (Flags.ofByte 0xFF))).map
      (fun t => (t.io, t.pc)) = some ([.write 0x1234 0x12], 0x0002) := by decide
theorem test_outC0 :
    (one [0xED, 0x71] (base.setBc 0x00FE)).map
      (fun t => (t.io, t.pc)) = some ([.write 0x00FE 0x00], 0x0002) := by decide
theorem test_sbcHLRp :
    (one [0xED, 0x42] (((base.setHl 0x0000).setBc 0x0001).setF (Flags.ofByte 0x00))).map
      (fun t => (fixed t, t.rp .hl, t.pc)) = some (0x93, 0xFFFF, 0x0002) := by decide
theorem test_adcHLRp :
    (one [0xED, 0x4A] (((base.setHl 0x7FFF).setBc 0x0000).setF (Flags.ofByte 0x01))).map
      (fun t => (fixed t, t.rp .hl, t.pc)) = some (0x94, 0x8000, 0x0002) := by decide
theorem test_ldNnindRp :
    (one [0xED, 0x43, 0x00, 0x40] (base.setBc 0x1234)).map
      (fun t => (t.readByte 0x4000, t.readByte 0x4001)) = some (0x34, 0x12) := by decide
theorem test_ldRpNnind :
    (one [0xED, 0x4B, 0x00, 0x40] ((base.writeByte 0x4000 0x34).writeByte 0x4001 0x12)).map
      (fun t => (t.rp .bc, t.pc)) = some (0x1234, 0x0004) := by decide
theorem test_neg :
    (one [0xED, 0x44] ((base.setReg .a 0x01).setF (Flags.ofByte 0x00))).map
      (fun t => (t.main.a, t.main.f.toByte)) = some (0xFF, 0xBB) := by decide
theorem test_retn :
    (one [0xED, 0x45] (((((base.setPc 0x0066).setIff1 false).setIff2 true).writeByte 0x8000 0x34).writeByte
        0x8001 0x12)).map (fun t => (t.sp, t.iff1, t.pc)) = some (0x8002, true, 0x1234) := by decide
theorem test_reti :
    (one [0xED, 0x4D] (((((base.setPc 0x0038).setIff1 false).setIff2 true).writeByte 0x8000 0x34).writeByte
        0x8001 0x12)).map (fun t => (t.sp, t.iff1, t.pc)) = some (0x8002, true, 0x1234) := by decide
theorem test_im0 :
    (one [0xED, 0x46] (base.setIm .im2)).map (fun t => t.im) = some .im0 := by decide
theorem test_im1 :
    (one [0xED, 0x56] (base.setIm .im0)).map (fun t => t.im) = some .im1 := by decide
theorem test_im2 :
    (one [0xED, 0x5E] (base.setIm .im0)).map (fun t => t.im) = some .im2 := by decide
theorem test_ldIA :
    (one [0xED, 0x47] ((base.setReg .a 0x40).setF (Flags.ofByte 0xFF))).map (fun t => t.i) = some 0x40 := by decide
theorem test_ldRA :
    (one [0xED, 0x4F] ((base.setReg .a 0xFF).setR 0x10)).map (fun t => t.r) = some 0xFF := by decide
theorem test_ldAI :
    (one [0xED, 0x57] ((((base.setReg .a 0x55).setI 0x00).setIff2 true).setF (Flags.ofByte 0x01))).map
      (fun t => (t.main.a, t.main.f.toByte)) = some (0x00, 0x45) := by decide
theorem test_ldAR :
    (one [0xED, 0x5F] (((base.setR 0x7F).setIff2 false).setF (Flags.ofByte 0x00))).map
      (fun t => (t.main.a, t.r, t.main.f.toByte)) = some (0x01, 0x01, 0x00) := by decide
theorem test_rrd :
    (one [0xED, 0x67] ((((base.setReg .a 0x84).setHl 0x4000).setF (Flags.ofByte 0x01)).writeByte 0x4000 0x20)).map
      (fun t => (t.main.a, t.main.f.toByte, t.readByte 0x4000)) = some (0x80, 0x81, 0x42) := by decide
theorem test_rld :
    (one [0xED, 0x6F] ((((base.setReg .a 0x7A).setHl 0x4000).setF (Flags.ofByte 0x00)).writeByte 0x4000 0x31)).map
      (fun t => (t.main.a, t.main.f.toByte, t.readByte 0x4000)) = some (0x73, 0x20, 0x1A) := by decide
theorem test_ldi :
    (one [0xED, 0xA0] ((((((base.setHl 0xFFFF).setDe 0xFFFF).setBc 0x0000).setReg .a 0x00).setF (Flags.ofByte
        0x00)).writeByte 0xFFFF 0x11)).map (fun t => (fixed t, t.rp .bc, t.rp .de, t.rp .hl, t.readByte 0xFFFF))
        = some (0x04, 0xFFFF, 0x0000, 0x0000, 0x11) := by decide
theorem test_ldd :
    (one [0xED, 0xA8] ((((((base.setHl 0x1000).setDe 0x2000).setBc 0x0002).setReg .a 0x00).setF (Flags.ofByte
        0x00)).writeByte 0x1000 0xAB)).map (fun t => (fixed t, t.rp .de, t.rp .hl, t.main.c, t.readByte 0x2000))
        = some (0x04, 0x1FFF, 0x0FFF, 0x01, 0xAB) := by decide
theorem test_ldir :
    (one [0xED, 0xB0] ((((((((base.setHl 0x1000).setDe 0x2000).setBc 0x0003).setReg .a 0x00).setF (Flags.ofByte
        0x00)).writeByte 0x1000 0x01).writeByte 0x1001 0x02).writeByte 0x1002 0x03)).map
      (fun t => (fixed t, t.main.c, t.main.e, t.main.l, t.r, t.pc, t.readByte 0x2000))
        = some (0x04, 0x02, 0x01, 0x01, 0x02, 0x0000, 0x01) := by decide
theorem test_cpi :
    (one [0xED, 0xA1] (((((base.setReg .a 0x3B).setHl 0x1111).setBc 0x0001).setF (Flags.ofByte 0x01)).writeByte
        0x1111 0x3B)).map (fun t => (fixed t, t.main.c, t.main.l)) = some (0x43, 0x00, 0x12) := by decide
theorem test_cpd :
    (one [0xED, 0xA9] (((((base.setReg .a 0x10).setHl 0x1111).setBc 0x0005).setF (Flags.ofByte 0x00)).writeByte
        0x1111 0x01)).map (fun t => (fixed t, t.main.c, t.main.l)) = some (0x16, 0x04, 0x10) := by decide
theorem test_cpir :
    (one [0xED, 0xB1] (((((base.setReg .a 0x02).setHl 0x1000).setBc 0x0001).setF (Flags.ofByte 0x00)).writeByte
        0x1000 0x02)).map
      (fun t => (fixed t, t.main.c, t.main.l, t.pc)) = some (0x42, 0x00, 0x01, 0x0002) := by decide
theorem test_ini :
    (one [0xED, 0xA2] ((((base.setHl 0xFFFF).setBc 0x0007).setF (Flags.ofByte 0x00)).setPortIn [0x7B])).map
      (fun t => (t.main.f.z, t.rp .hl, t.main.b, t.readByte 0xFFFF)) = some (false, 0x0000, 0xFF, 0x7B) := by decide
theorem test_ind :
    (one [0xED, 0xAA] ((((base.setHl 0x1000).setBc 0x0207).setF (Flags.ofByte 0x00)).setPortIn [0x7B])).map
      (fun t => (t.main.f.z, t.rp .hl, t.main.b, t.readByte 0x1000)) = some (false, 0x0FFF, 0x01, 0x7B) := by decide
theorem test_outi :
    (one [0xED, 0xA3] ((((base.setHl 0x1000).setBc 0x0207).setF (Flags.ofByte 0x00)).writeByte 0x1000 0x59)).map
      (fun t => (t.io, t.main.f.z, t.main.b, t.main.l))
        = some ([.write 0x0107 0x59], false, 0x01, 0x01) := by decide
theorem test_outd :
    (one [0xED, 0xAB] ((((base.setHl 0x1000).setBc 0x0107).setF (Flags.ofByte 0x00)).writeByte 0x1000 0x59)).map
      (fun t => (t.io, t.main.f.z, t.rp .hl, t.main.b))
        = some ([.write 0x0007 0x59], true, 0x0FFF, 0x00) := by decide
theorem test_ldIXNn :
    (one [0xDD, 0x21, 0x34, 0x12] (base.setHl 0x5555)).map (fun t => (t.ix, t.r)) = some (0x1234, 0x02) := by decide
theorem test_ldIYNn :
    (one [0xDD, 0xFD, 0x21, 0x34, 0x12] ((base.setIx 0x1111).setIy 0x2222)).map
      (fun t => (t.iy, t.r)) = some (0x1234, 0x03) := by decide
theorem test_ldNnindIX :
    (one [0xDD, 0x22, 0x00, 0x40] (base.setIx 0xABCD)).map
      (fun t => (t.readByte 0x4000, t.readByte 0x4001)) = some (0xCD, 0xAB) := by decide
theorem test_ldIYNnind :
    (one [0xFD, 0x2A, 0x00, 0x40] ((base.writeByte 0x4000 0xCD).writeByte 0x4001 0xAB)).map
      (fun t => t.iy) = some 0xABCD := by decide
theorem test_incIX :
    (one [0xDD, 0xDD, 0xDD, 0x23] (base.setIx 0x00FF)).map (fun t => (t.ix, t.r)) = some (0x0100, 0x04) := by decide
theorem test_decIY :
    (one [0xFD, 0x2B] ((base.setIy 0x0000).setF (Flags.ofByte 0xFF))).map (fun t => t.iy) = some 0xFFFF := by decide
theorem test_addIXRr :
    (one [0xDD, 0x09] (((base.setIx 0x0FFF).setBc 0x0001).setF (Flags.ofByte 0xC4))).map
      (fun t => (fixed t, t.ix)) = some (0xD4, 0x1000) := by decide
theorem test_addIYRr :
    (one [0xFD, 0x39] (((base.setIy 0x1234).setSp 0x1111).setF (Flags.ofByte 0x00))).map
      (fun t => (fixed t, t.iy)) = some (0x00, 0x2345) := by decide
theorem test_popIX :
    (one [0xDD, 0xE1] ((base.writeByte 0x8000 0x34).writeByte 0x8001 0x12)).map
      (fun t => (t.ix, t.sp)) = some (0x1234, 0x8002) := by decide
theorem test_pushIY :
    (one [0xFD, 0xE5] (base.setIy 0x1234)).map
      (fun t => (t.sp, t.readByte 0x7FFE, t.readByte 0x7FFF)) = some (0x7FFE, 0x34, 0x12) := by decide
theorem test_exSPindIX :
    (one [0xDD, 0xE3] (((base.setIx 0xABCD).writeByte 0x8000 0x34).writeByte 0x8001 0x12)).map
      (fun t => (t.ix, t.readByte 0x8000, t.readByte 0x8001)) = some (0x1234, 0xCD, 0xAB) := by decide
theorem test_jpIX :
    (one [0xDD, 0xE9] ((base.setIx 0x4000).writeByte 0x4000 0x99)).map (fun t => t.pc) = some 0x4000 := by decide
theorem test_ldSPIY :
    (one [0xFD, 0xF9] (base.setIy 0x9000)).map (fun t => t.sp) = some 0x9000 := by decide
theorem test_incIXd :
    (one [0xDD, 0x34, 0x05] (((base.setIx 0x4000).setF (Flags.ofByte 0x01)).writeByte 0x4005 0x7F)).map
      (fun t => (t.main.f.toByte, t.readByte 0x4005)) = some (0x95, 0x80) := by decide
theorem test_decIXd :
    (one [0xDD, 0x35, 0xFF] (((base.setIx 0x4000).setF (Flags.ofByte 0x00)).writeByte 0x3FFF 0x01)).map
      (fun t => (t.main.f.toByte, t.readByte 0x3FFF)) = some (0x42, 0x00) := by decide
theorem test_ldIXdN :
    (one [0xDD, 0x36, 0x02, 0x5A] (base.setIx 0x4000)).map (fun t => t.readByte 0x4002) = some 0x5A := by decide
theorem test_ldIYdN :
    (one [0xFD, 0x36, 0x80, 0xA5] (base.setIy 0x0010)).map (fun t => t.readByte 0xFF90) = some 0xA5 := by decide
theorem test_ldRIXd :
    (one [0xDD, 0x66, 0x01] (((base.setIx 0x4000).setHl 0x1111).writeByte 0x4001 0x77)).map
      (fun t => t.main.h) = some 0x77 := by decide
theorem test_ldRIYd :
    (one [0xFD, 0x7E, 0xFE] ((base.setIy 0x4002).writeByte 0x4000 0x42)).map
      (fun t => t.main.a) = some 0x42 := by decide
theorem test_ldIXdR :
    (one [0xDD, 0x70, 0x03] ((base.setIx 0x4000).setReg .b 0xEE)).map
      (fun t => t.readByte 0x4003) = some 0xEE := by decide
theorem test_ldIYdR :
    (one [0xFD, 0x75, 0x01] ((base.setIy 0x4000).setHl 0x1234)).map
      (fun t => t.readByte 0x4001) = some 0x34 := by decide
theorem test_addAIXd :
    (one [0xDD, 0x86, 0x01] ((((base.setReg .a 0x7F).setIx 0x4000).setF (Flags.ofByte 0x00)).writeByte 0x4001
        0x01)).map (fun t => (t.main.a, t.main.f.toByte)) = some (0x80, 0x94) := by decide
theorem test_adcAIXd :
    (one [0xDD, 0x8E, 0x01] ((((base.setReg .a 0xFF).setIx 0x4000).setF (Flags.ofByte 0x01)).writeByte 0x4001
        0x00)).map (fun t => (t.main.a, t.main.f.toByte)) = some (0x00, 0x51) := by decide
theorem test_subIYd :
    (one [0xFD, 0x96, 0x01] ((((base.setReg .a 0x00).setIy 0x4000).setF (Flags.ofByte 0x00)).writeByte 0x4001
        0x01)).map (fun t => (t.main.a, t.main.f.toByte)) = some (0xFF, 0xBB) := by decide
theorem test_sbcAIXd :
    (one [0xDD, 0x9E, 0x01] ((((base.setReg .a 0x10).setIx 0x4000).setF (Flags.ofByte 0x01)).writeByte 0x4001
        0x0F)).map (fun t => (t.main.a, t.main.f.toByte)) = some (0x00, 0x52) := by decide
theorem test_andIXd :
    (one [0xDD, 0xA6, 0x01] ((((base.setReg .a 0xF0).setIx 0x4000).setF (Flags.ofByte 0x01)).writeByte 0x4001
        0x3C)).map (fun t => (t.main.a, t.main.f.toByte)) = some (0x30, 0x34) := by decide
theorem test_xorIXd :
    (one [0xDD, 0xAE, 0x01] ((((base.setReg .a 0xFF).setIx 0x4000).setF (Flags.ofByte 0x01)).writeByte 0x4001
        0xFF)).map (fun t => (t.main.a, t.main.f.toByte)) = some (0x00, 0x44) := by decide
theorem test_orIYd :
    (one [0xFD, 0xB6, 0x01] ((((base.setReg .a 0x00).setIy 0x4000).setF (Flags.ofByte 0x01)).writeByte 0x4001
        0x28)).map (fun t => (t.main.a, t.main.f.toByte)) = some (0x28, 0x2C) := by decide
theorem test_cpIXd :
    (one [0xDD, 0xBE, 0x01] ((((base.setReg .a 0x28).setIx 0x4000).setF (Flags.ofByte 0x00)).writeByte 0x4001
        0x29)).map (fun t => (fixed t, t.pc)) = some (0x93, 0x0003) := by decide
theorem test_rotIXd :
    (one [0xDD, 0xCB, 0x05, 0x06] (((base.setIx 0x4000).setF (Flags.ofByte 0x00)).writeByte 0x4005 0x81)).map
      (fun t => (t.r, t.main.f.toByte, t.readByte 0x4005)) = some (0x02, 0x05, 0x03) := by decide
theorem test_rotIYd :
    (one [0xFD, 0xCB, 0xFF, 0x1E] (((base.setIy 0x4000).setF (Flags.ofByte 0x01)).writeByte 0x3FFF 0x01)).map
      (fun t => (t.main.f.toByte, t.readByte 0x3FFF)) = some (0x81, 0x80) := by decide
theorem test_bitIXd :
    (one [0xDD, 0xCB, 0x00, 0x7E] (((base.setIx 0x4000).setF (Flags.ofByte 0x01)).writeByte 0x4000 0x80)).map
      (fun t => (fixed t, t.pc)) = some (0x91, 0x0004) := by decide
theorem test_bitIYd :
    (one [0xFD, 0xCB, 0x10, 0x6E] (((base.setIy 0x2FF8).setF (Flags.ofByte 0x00)).writeByte 0x3008 0x20)).map
      (fun t => (fixed t, t.pc)) = some (0x10, 0x0004) := by decide
theorem test_resIXd :
    (one [0xDD, 0xCB, 0x02, 0x9E] (((base.setIx 0x4000).setF (Flags.ofByte 0xFF)).writeByte 0x4002 0xFF)).map
      (fun t => t.readByte 0x4002) = some 0xF7 := by decide
theorem test_setIYd :
    (one [0xFD, 0xCB, 0xFE, 0xFE] ((base.setIy 0x4002).writeByte 0x4000 0x01)).map
      (fun t => t.readByte 0x4000) = some 0x81 := by decide
theorem test_rotIXdR :
    (one [0xDD, 0xCB, 0x01, 0x00] ((((base.setIx 0x4000).setReg .b 0x77).setF (Flags.ofByte 0x00)).writeByte
        0x4001 0x81)).map
      (fun t => (t.main.b, t.main.f.toByte, t.readByte 0x4001)) = some (0x03, 0x05, 0x03) := by decide
theorem test_resIXdR :
    (one [0xDD, 0xCB, 0x01, 0x87] (((base.setIx 0x4000).setReg .a 0x00).writeByte 0x4001 0xFF)).map
      (fun t => (t.main.a, t.readByte 0x4001)) = some (0xFE, 0xFE) := by decide
theorem test_setIYdR :
    (one [0xFD, 0xCB, 0x01, 0xC4] (((base.setIy 0x4000).setHl 0x1111).writeByte 0x4001 0x00)).map
      (fun t => (t.main.h, t.readByte 0x4001)) = some (0x01, 0x01) := by decide
theorem test_setIXd :
    (one [0xFD, 0xDD, 0xCB, 0x00, 0xC6] ((base.setIx 0x4000).setIy 0x5000)).map
      (fun t => (t.r, t.readByte 0x4000)) = some (0x03, 0x01) := by decide
theorem test_setIXdR :
    (one [0xDD, 0xCB, 0x00, 0xED] ((base.setIx 0x4000).setHl 0x0000)).map
      (fun t => (t.main.l, t.readByte 0x4000)) = some (0x20, 0x20) := by decide

/-- EX AF, AF' and EXX (spec/95_test_vectors.md B.1, B.4). -/
theorem test_exAFAF :
    (one [0x08] ((base.setA 0x12).setF (Flags.ofByte 0xD7))).map (fun t => (t.main.a, t.alt.a, t.alt.f.toByte))
      = some (0x00, 0x12, 0xD7) := by decide
theorem test_exx :
    (one [0xD9] ((base.setBc 0x1234).setA 0x55)).map (fun t => (t.rp .bc, t.alt.bc, t.main.a, t.alt.a))
      = some (0x0000, 0x1234, 0x55, 0x00) := by decide

/-- First iterations of repeating instructions: pc stays at the instruction (R429 to R435). -/
theorem test_lddr :
    (one [0xED, 0xB8] ((((base.setHl 0x1001).setDe 0x2001).setBc 0x0002).writeByte 0x1001 0x02)).map
      (fun t => (t.rp .hl, t.rp .de, t.rp .bc, t.pc, t.readByte 0x2001, fixed t))
      = some (0x1000, 0x2000, 0x0001, 0x0000, 0x02, 0x04) := by decide
theorem test_cpdr :
    (one [0xED, 0xB9] ((((base.setA 0x01).setHl 0x1001).setBc 0x0005).writeByte 0x1001 0x02)).map
      (fun t => (t.rp .hl, t.rp .bc, t.pc, fixed t)) = some (0x1000, 0x0004, 0x0000, 0x96) := by decide
theorem test_inir :
    (one [0xED, 0xB2] (((base.setHl 0x1000).setBc 0x0207).setPortIn [0x7B])).map
      (fun t => (t.rp .hl, t.main.b, t.pc, t.main.f.z, t.io)) = some (0x1001, 0x01, 0x0000, false, [.read 0x0207 0x7B]) := by
  decide
theorem test_indr :
    (one [0xED, 0xBA] (((base.setHl 0x1001).setBc 0x0107).setPortIn [0x7B])).map
      (fun t => (t.rp .hl, t.main.b, t.pc, t.main.f.z, t.readByte 0x1001)) = some (0x1000, 0x00, 0x0002, true, 0x7B) := by
  decide
theorem test_otir :
    (one [0xED, 0xB3] (((base.setHl 0x1000).setBc 0x0207).writeByte 0x1000 0x11)).map
      (fun t => (t.rp .hl, t.main.b, t.pc, t.io)) = some (0x1001, 0x01, 0x0000, [.write 0x0107 0x11]) := by decide
theorem test_otdr :
    (one [0xED, 0xBB] (((base.setHl 0x1001).setBc 0x0107).writeByte 0x1001 0x22)).map
      (fun t => (t.rp .hl, t.main.b, t.pc, t.io)) = some (0x1000, 0x00, 0x0002, [.write 0x0007 0x22]) := by decide

/-- Y and X as on silicon (spec/95_test_vectors.md, the bracketed values). -/
theorem test_addHLRp_silicon :
    (one [0x39] (onSilicon ((base.setHl 0x1234).setSp 0x1111))).map (fun t => t.main.f.toByte) = some 0x20 := by decide
theorem test_cpR_silicon :
    (one [0xBF] (onSilicon (base.setA 0x28))).map (fun t => t.main.f.toByte) = some 0x6A := by decide
theorem test_ldi_silicon :
    (one [0xED, 0xA0] (onSilicon ((((base.setHl 0x1000).setDe 0x2000).setBc 0x0001).writeByte 0x1000 0xAB))).map
      (fun t => t.main.f.toByte) = some 0x28 := by decide
theorem test_cpi_silicon :
    (one [0xED, 0xA1] (onSilicon ((((base.setA 0x3B).setHl 0x1111).setBc 0x0002).writeByte 0x1111 0x3C))).map
      (fun t => t.main.f.toByte) = some 0xBE := by decide
theorem test_bitIYd_silicon :
    (one [0xFD, 0xCB, 0x10, 0x6E] (onSilicon ((base.setIy 0x2FF8).writeByte 0x3008 0x20))).map
      (fun t => t.main.f.toByte) = some 0x30 := by decide

/-- Unlisted encodings (R141, R142, R480): refused by name by default; on silicon ED 54 is NEG and DD 24 is INC IXH. -/
theorem test_edUnlisted :
    refusalOf (step (place 0 [0xED, 0x54] base)) = some (.edUnlisted 0x54) ∧
    (one [0xED, 0x54] (onSilicon (base.setA 0x01))).map (fun t => (t.main.a, t.main.f.toByte)) = some (0xFF, 0xBB) := by decide
theorem test_ixUnlisted :
    refusalOf (step (place 0 [0xDD, 0x24] base)) = some (.idxUnlisted 0x24) ∧
    (one [0xDD, 0x24] (onSilicon ((base.setIx 0x12FF).setHl 0x3456))).map (fun t => (t.ix, t.rp .hl))
      = some (0x13FF, 0x3456) := by decide
theorem test_iyUnlisted :
    (one [0xFD, 0x6F] (onSilicon ((base.setIy 0x1200).setA 0x77))).map (fun t => (t.iy, t.main.l)) = some (0x1277, 0x00) ∧
    (one [0xFD, 0x06, 0x9A] (onSilicon base)).map (fun t => (t.main.b, t.pc)) = some (0x9A, 0x0003) := by decide

/-- The host's two questions about LD BC, nn, SET 0, (IX+d) and DD, on their words of the opcode table. -/
theorem test_withFetchWord :
    (nextOf (step (State.reset.withFetchWord 8 0x01))).map (fun t => (t.rp .bc, t.pc)) = some (0x0000, 0x0003) ∧
    (nextOf (step (State.reset.withFetchWord 32 0xC600CBDD))).map (fun t => (t.readByte 0x0000, t.pc))
      = some (0xDD, 0x0004) ∧
    (nextOf (step (State.reset.withFetchWord 16 0x46ED))).map (fun t => t.pc) = some 0x0002 := by decide

/-- Equal memories are equal data: a byte written back to what an unlisted address reads as leaves no entry (log 3). -/
theorem test_memory_canonical :
    ((base.writeByte 0x4000 0x5A).writeByte 0x4000 0x00).mem = [] ∧
    ((base.writeByte 0x4001 0x01).writeByte 0x4000 0x02).mem = [(0x4000, 0x02), (0x4001, 0x01)] := by decide

/-! ### Interrupts, halt and reset -/

/-- Inputs at the next boundary. -/
def atBoundary (s : State) (b : BoundaryInput) : State := { s with inputs := [b] }

/-- A machine with interrupts enabled, the mode given, and code at 1234. -/
def enabled (m : IMode) : State := { base with iff1 := true, iff2 := true, im := m, pc := 0x1234, i := 0x40 }

/-- R611: pc pushed, IFF1 down, IFF2 kept, the halt ended. -/
theorem test_nmi :
    (nextOf (step (atBoundary { enabled .im1 with halted := true } ⟨true, true, 0xFF, false⟩))).map
      (fun t => (t.pc, t.readWord 0x7FFE, t.iff1, t.iff2, t.halted)) = some (0x0066, 0x1234, false, true, false) := by decide
/-- R614, R615, R616. -/
theorem test_int_modes :
    (nextOf (step (atBoundary (enabled .im0) ⟨false, true, 0xEF, false⟩))).map (fun t => (t.pc, t.iff1, t.iff2))
      = some (0x0028, false, false) ∧
    refusalOf (step (atBoundary (enabled .im0) ⟨false, true, 0xCD, false⟩)) = some (.im0NonRst 0xCD) ∧
    (nextOf (step (atBoundary (enabled .im1) ⟨false, true, 0x00, false⟩))).map (fun t => t.pc) = some 0x0038 ∧
    (nextOf (step (atBoundary (place 0x40FF [0x78, 0x56] (enabled .im2)) ⟨false, true, 0xFF, false⟩))).map (fun t => t.pc)
      = some 0x5678 := by decide
/-- R617: a reset goes first; R700. -/
theorem test_reset_input :
    (nextOf (step (atBoundary { enabled .im2 with r := 0x55 } ⟨true, true, 0xFF, true⟩))).map
      (fun t => (t.pc, t.r, t.i, t.iff1)) = some (0x0000, 0x00, 0x00, false) := by decide
/-- R264: a halted step counts R, bit 7 kept (R31). -/
theorem test_halted_step :
    nextOf (step { base with halted := true, r := 0xFF }) = some { base with halted := true, r := 0x80 } := by decide

/-! ### Every statement's hypotheses can be met -/

/-- A machine with bytes in memory, a stack, and both index registers away from the edges. -/
def demo : State :=
  { place 0x4000 [0x5A, 0xA5, 0x7F] (place 0x8000 [0x34, 0x12] base) with
    ix := 0x4000, iy := 0x4001, pc := 0x0100
    main := { Bank.resetAlt with a := 0x99, b := 0x01, h := 0x40, d := 0x20 } }

/-- Nothing is at the boundary of `s`, and it is not halted. -/
theorem undisturbed_quiet {s : State} (h1 : s.inputs = []) (h2 : s.nmiPending = false) (h3 : s.halted = false) :
    s.Undisturbed :=
  ⟨by simp [State.boundary, h1, BoundaryInput.quiet], by simp [State.boundary, h1, BoundaryInput.quiet], h2,
    by simp [State.boundary, h1, BoundaryInput.quiet], h3⟩

/-- EncodedInstructionsDecodeAfterAnyPrefixRun: the ED and the DD CB page after a run, and the MAIN page with none. -/
theorem witness_encoded_after_run :
    ((Instr.adcHLRp .sp).wf = true ∧ (Instr.adcHLRp .sp).selects = none ∧
      (∀ b ∈ ([0xDD, 0xFD] : List Byte), b = 0xDD ∨ b = 0xFD) ∧ (Instr.adcHLRp .sp).page = .ed) ∧
    ((Instr.setIXdR 7 0xFF .a).wf = true ∧ (Instr.setIXdR 7 0xFF .a).selects = none ∧
      (Instr.setIXdR 7 0xFF .a).page = .ix) ∧
    ((Instr.iyUnlisted 0x01 0xFF 0xFF).wf = true ∧ (Instr.iyUnlisted 0x01 0xFF 0xFF).selects = none ∧
      (Instr.iyUnlisted 0x01 0xFF 0xFF).page = .iy) ∧
    (Instr.nop.wf = true ∧ Instr.nop.selects = none ∧ Instr.nop.page = .main) := by decide

/-- DecodeAnswersWellFormedInstructions. -/
theorem witness_decode_answers : decode [0xDD, 0xED, 0xFF, 0x00] = .ok ⟨.edUnlisted 0xFF, 3, 3⟩ := by decide

/-- ARunningStepExecutesTheDecodedInstruction: an instruction that wraps round the end of memory, and a pending EI with INT
up. -/
theorem witness_running_step :
    (place 0xFFFE [0xC3, 0x34, 0x12] { base with pc := 0xFFFE }).Undisturbed ∧
    decode ((place 0xFFFE [0xC3, 0x34, 0x12] { base with pc := 0xFFFE }).bytesFrom 0xFFFE 3) = .ok ⟨.jpNn 0x1234, 3, 1⟩ ∧
    (atBoundary { enabled .im1 with eiPending := true } ⟨false, true, 0xFF, false⟩).Undisturbed :=
  ⟨undisturbed_quiet rfl rfl rfl, by decide, ⟨rfl, rfl, rfl, fun _ _ => rfl, rfl⟩⟩

/-- Memory of `n` bytes `v`. -/
def allSame (n : Nat) (v : Byte) : State := { base with mem := (List.range n).map fun j => (j, v) }

theorem read_all_same (v : Byte) : ∀ (ks : List Nat) (k : Nat), k ∈ ks → Memory.read (ks.map fun j => (j, v)) k = v := by
  intro ks
  induction ks with
  | nil => simp
  | cons j rest ih =>
    intro k hk
    rw [List.map_cons, Memory.read]
    split
    · rfl
    · next h =>
      exact ih k ((List.mem_cons.mp hk).resolve_left fun e => h e.symm)

theorem readByte_allSame {n : Nat} {v : Byte} (a : Word) (h : a.toNat < n) : (allSame n v).readByte a = v :=
  read_all_same v _ _ (List.mem_range.mpr h)

/-- OnlyAnEndlessPrefixRunFaults: a machine of the one kind, and one of the other. -/
theorem witness_endless_run :
    (∃ s : State, s.Undisturbed ∧ ∀ a : Word, s.readByte a = 0xDD ∨ s.readByte a = 0xFD) ∧
    (demo.Undisturbed ∧ demo.readByte 0x0000 = 0x00) :=
  ⟨⟨allSame 65536 0xDD, undisturbed_quiet rfl rfl rfl, fun a => .inl (readByte_allSame a a.isLt)⟩,
    undisturbed_quiet rfl rfl rfl, by decide⟩

/-- OnlyUnlistedEncodingsAreRefused: each of its three cases. -/
theorem witness_refusals :
    ((Instr.edUnlisted 0x00).wf = true ∧ refusalOf (exec (.edUnlisted 0x00) base) = some (.edUnlisted 0x00)) ∧
    ((Instr.iyUnlisted 0xFB 0x00 0x00).wf = true ∧ refusalOf (exec (.iyUnlisted 0xFB 0x00 0x00) base) = some (.idxUnlisted 0xFB)) ∧
    ((Instr.ixUnlisted 0x65 0x00 0x00).wf = true ∧ (nextOf (exec (.ixUnlisted 0x65 0x00 0x00) (onSilicon base))).isSome = true) ∧
    (Instr.nop.wf = true ∧ nextOf (exec .nop base) = some base) := by decide

/-- EveryStepKeepsTheStateLegal: a legal state with interrupts on, memory listed and EI's delay running, and its step. -/
theorem witness_legal_step :
    Legal { demo with iff1 := true, iff2 := true, eiPending := true } ∧
    (nextOf (step { demo with iff1 := true, iff2 := true, eiPending := true })).isSome = true :=
  ⟨⟨by decide, fun _ => rfl, fun _ => rfl⟩, by decide⟩

/-- InstructionsLeaveTheEnvironmentAlone: with an answer lined up, and with a port write. -/
theorem witness_environment :
    (nextOf (exec .ini (base.setPortIn [0x7B, 0x01]))).map (fun t => (t.portIn, t.io)) = some ([0x01], [.read 0x0000 0x7B]) ∧
    (nextOf (exec (.outNA 0xFE) base)).map (fun t => t.io) = some [.write 0x00FE 0x00] := by decide

/-- OnlyItsOwnPageReachesAnIndexRegister: an instruction on neither page, and one on each. -/
theorem witness_index_pages :
    (Instr.nop.page ≠ .ix ∧ Instr.nop.page ≠ .iy ∧ nextOf (exec .nop demo) = some demo) ∧
    ((Instr.addIXRr .xy).page ≠ .iy ∧ (nextOf (exec (.addIXRr .xy) demo)).isSome = true) ∧
    ((Instr.popIY).page ≠ .ix ∧ (nextOf (exec .popIY demo)).isSome = true) := by decide

/-- OnlyTheExchangesReachTheAlternateSet. -/
theorem witness_alternate_set :
    Instr.exDEHL ≠ .exAFAF ∧ Instr.exDEHL ≠ .exx ∧
    (∀ op n1 n2, Instr.exDEHL ≠ .ixUnlisted op n1 n2 ∧ Instr.exDEHL ≠ .iyUnlisted op n1 n2) ∧
    (nextOf (exec .exDEHL demo)).isSome = true :=
  ⟨by decide, by decide, fun _ _ _ => ⟨fun h => (nomatch h), fun h => (nomatch h)⟩, by decide⟩

/-- OnlyLdRAChangesBitSevenOfR: a step that keeps bit 7 when the count wraps, and LD R, A, which changes it. -/
theorem witness_bit_seven :
    (({ demo with r := 0xFF } : State).boundary.reset = false ∧
      (nextOf (step { demo with r := 0xFF })).map (fun t => t.r) = some 0x80) ∧
    (one [0xED, 0x4F] demo).map (fun t => t.r) = some 0x99 ∧
    decode ((place 0x0100 [0xED, 0x4F] demo).bytesFrom 0x0100 2) = .ok ⟨.ldRA, 2, 2⟩ := by decide

/-- The statements that ask for a memory in canonical form, and nothing else: TheStackGivesBackWhatWasPut,
ByteStoresWriteOneByte, WordStoresWriteTwoBytesLowFirst, PushesStoreBelowTheStackPointer, ExchangesSwapWhatTheyName,
MemoryBytesCountByOneAndKeepCarry, RotatesAndShiftsOfRegisterOrMemory, RotatesAndShiftsOfIndexedMemory,
ResAndSetChangeOneBitOfMemory, CallsPushTheReturnAddress, DecimalRotatesMoveNibbles, DecimalRotatesUndoEachOther,
BlockLoadsMoveOneByteAndCount, BlockInputsStoreAndCount. Here with SP at the edge too. -/
theorem witness_memory_form :
    demo.mem.wf = true ∧ demo.mem ≠ [] ∧
    (nextOf (exec (.pushRp2 .hl) { demo with sp := 0x0001 })).map (fun t => (t.readByte 0xFFFF, t.readByte 0x0000))
      = some (0x00, 0x40) := by decide

theorem witness_memory_count :
    demo.mem.wf = true ∧ demo.readByte (pair demo.main.h demo.main.l + 2) = 0x7F ∧
    (nextOf (exec (.incIYd 0x01) demo)).map (fun t => (t.readByte 0x4002, t.main.f.pv)) = some (0x80, true) := by decide

theorem witness_decimal_rotates :
    demo.mem.wf = true ∧
    (nextOf (exec .rrd demo)).map (fun t => (t.main.a, t.readByte 0x4000)) = some (0x9A, 0x95) := by decide

/-- RotatesAndShiftsOfRegisterOrMemory: a register and the byte at HL. -/
theorem witness_rotates :
    demo.mem.wf = true ∧ (Operand8.reg .a = .reg .a ∧ Operand8.hlInd = .hlInd) ∧
    (nextOf (exec (.rlcR .hlInd) demo)).map (fun t => t.readByte 0x4000) = some 0xB4 ∧
    (nextOf (exec (.rlcR (.reg .a)) demo)).map (fun t => t.main.a) = some 0x33 := by decide

/-- The clauses under `XY_OPEN = silicon`, `BLOCK_IO_FLAGS = silicon` and `R_TRACKING = exact`: ComparesKeepTheAccumulator,
WideAdditionsKeepSignZeroParity, WideAdditionsAndSubtractionsWithCarry, BitTestsOnlyWriteFlags,
BlockLoadsMoveOneByteAndCount, BlockComparesStopAtAMatch, BlockInputsStoreAndCount, BlockOutputsWriteAndCount,
InterruptPageAndRefreshLoads. -/
theorem witness_silicon_settings :
    (onSilicon demo).mem.wf = true ∧ (onSilicon demo).cfg.xyOpen = .silicon ∧
    (onSilicon demo).cfg.blockIoFlags = .silicon ∧ (onSilicon demo).cfg.rTracking = .exact ∧
    (nextOf (exec .ini ((onSilicon demo).setPortIn [0xFF]))).map (fun t => (t.main.f.toByte, t.main.b))
      = some (0x57, 0x00) := by decide

/-- DaaCorrectsPackedDecimalSumsAndDifferences at both ends of the range. -/
theorem witness_packed_decimal :
    demo.main.a = bcd 99 ∧ base.main.a = bcd 0 ∧
    (nextOf (exec (.adcAN (bcd 99)) { demo with main := { demo.main with f := Flags.ofByte 0x01 } })).map
      (fun t => (nextOf (exec .daa t)).map fun u => (u.main.a, u.main.f.c)) = some (some (bcd 99, true)) := by decide

/-- BlockComparesStopAtAMatch, its hypothesis, with a match and without. -/
theorem witness_block_compare :
    (∃ v : Byte, v = demo.readByte (demo.rp .hl)) ∧
    (nextOf (exec .cpir (demo.setA 0x5A))).map (fun t => (t.pc, t.main.f.z)) = some (0x0100, true) ∧
    (nextOf (exec .cpir demo)).map (fun t => (t.pc, t.main.f.z)) = some (0x00FE, false) :=
  ⟨⟨_, rfl⟩, by decide, by decide⟩

/-- ReturnsPopTheProgramCounter: its hypothesis on `t`. -/
theorem witness_returns :
    ∃ t : State, t = { demo with pc := pair (demo.readByte (demo.sp + 1)) (demo.readByte demo.sp), sp := demo.sp + 2 } ∧
      t.pc = 0x1234 := ⟨_, rfl, by decide⟩

/-- PortsAreReadAndWrittenInTheRecord: an answer lined up. -/
theorem witness_ports :
    (base.setPortIn [0x80]).portIn = [0x80] ∧
    (nextOf (exec (.inRC .a) (base.setPortIn [0x80]))).map (fun t => (t.main.a, t.main.f.toByte)) = some (0x80, 0x80) := by
  decide

/-- UnlistedEdOpcodesAreRefusedOrAsOnSilicon: an opcode of each clause, at the ends of their lists. -/
theorem witness_unlisted_ed :
    (onSilicon demo).cfg.edUnlisted = .silicon ∧
    (∀ op ∈ ([0x54, 0x7C, 0x55, 0x7D, 0x66, 0x6E, 0x76, 0x7E, 0x77, 0x00, 0xFF] : List Byte), (Instr.edUnlisted op).wf = true) ∧
    (nextOf (exec (.edUnlisted 0x7E) (onSilicon demo))).map (fun t => t.im) = some .im2 ∧
    (nextOf (exec (.edUnlisted 0x77) (onSilicon demo))) = some (onSilicon demo) := by decide

/-- UnlistedIndexOpcodesOnSilicon: an opcode that names H or L, one that does not, with operand bytes and without. -/
theorem witness_unlisted_index :
    (onSilicon demo).cfg.idxUnlisted = .silicon ∧
    (idxUnlistedWf 0x26 0xFF 0x00 = true ∧ namesHL (decodeMain 0x26 0xFF 0x00).1 = true) ∧
    (idxUnlistedWf 0xCD 0xFF 0xFF = true ∧ namesHL (decodeMain 0xCD 0xFF 0xFF).1 = false) ∧
    (nextOf (exec (.ixUnlisted 0x26 0xFF 0x00) (onSilicon demo))).map (fun t => (t.ix, t.main.h)) = some (0xFF00, 0x40) ∧
    (nextOf (exec (.iyUnlisted 0xCD 0xFF 0xFF) (onSilicon demo))).map (fun t => t.pc) = some 0xFFFF := by decide

/-- NonMaskableInterruptEntry and RetnReturnsFromANonMaskableInterrupt: raised at this boundary, and latched before it, with IFF1 up and down. -/
theorem witness_nmi :
    (demo.mem.wf = true ∧ (atBoundary demo ⟨true, false, 0x00, false⟩).boundary.reset = false ∧
      (atBoundary demo ⟨true, false, 0x00, false⟩).boundary.nmi = true) ∧
    (({ enabled .im0 with nmiPending := true } : State).mem.wf = true ∧
      ({ enabled .im0 with nmiPending := true } : State).boundary.reset = false) := by decide

/-- MaskableInterruptEntryByMode: the three modes, and in mode 0 the bus bytes at the edges of its clauses. -/
theorem witness_maskable :
    (∀ m ∈ [IMode.im0, .im1, .im2], ∀ b ∈ ([0x00, 0xBF, 0xC6, 0xC7, 0xFE, 0xFF] : List Byte),
      (atBoundary (enabled m) ⟨false, true, b, false⟩).mem.wf = true ∧
      (atBoundary (enabled m) ⟨false, true, b, false⟩).boundary.reset = false ∧
      (atBoundary (enabled m) ⟨false, true, b, false⟩).boundary.nmi = false ∧
      (atBoundary (enabled m) ⟨false, true, b, false⟩).nmiPending = false ∧
      (atBoundary (enabled m) ⟨false, true, b, false⟩).boundary.int = true ∧
      (atBoundary (enabled m) ⟨false, true, b, false⟩).iff1 = true ∧
      (atBoundary (enabled m) ⟨false, true, b, false⟩).eiPending = false ∧
      (atBoundary (enabled m) ⟨false, true, b, false⟩).boundary.busByte = b) ∧
    refusalOf (step (atBoundary (enabled .im0) ⟨false, true, 0xBF, false⟩)) = some (.im0NonRst 0xBF) ∧
    refusalOf (step (atBoundary (enabled .im0) ⟨false, true, 0xFE, false⟩)) = some (.im0NonRst 0xFE) ∧
    (nextOf (step (atBoundary (enabled .im0) ⟨false, true, 0xC7, false⟩))).map (fun t => t.pc) = some 0x0000 ∧
    (nextOf (step (atBoundary (enabled .im0) ⟨false, true, 0xFF, false⟩))).map (fun t => t.pc) = some 0x0038 := by decide

/-- AMaskedRequestMakesNoDifference: IFF1 down, and EI's delay. -/
theorem witness_masked :
    demo.iff1 = false ∧ ({ enabled .im1 with eiPending := true } : State).eiPending = true ∧
    (nextOf (step (atBoundary demo ⟨false, true, 0xFF, false⟩))).map (fun t => t.pc) = some 0x0101 := by decide

/-- TheInstructionAfterEiRunsFirst: EI with INT up for the boundary after it. -/
theorem witness_after_ei :
    (place 0x0100 [0xFB] { demo with inputs := [BoundaryInput.quiet, ⟨false, true, 0xFF, false⟩] }).Undisturbed ∧
    (place 0x0100 [0xFB] { demo with inputs := [BoundaryInput.quiet, ⟨false, true, 0xFF, false⟩] }).readByte 0x0100 = 0xFB ∧
    ((one [0xFB] { demo with inputs := [BoundaryInput.quiet, ⟨false, true, 0xFF, false⟩] }).bind fun t =>
      nextOf (step t)).map (fun u => (u.pc, u.iff1)) = some (0x0102, true) :=
  ⟨⟨rfl, rfl, rfl, fun _ h => (nomatch h), rfl⟩, by decide, by decide⟩

/-- AHaltedStepOnlyCountsR: nothing at the boundary, and a request that IFF1 masks. -/
theorem witness_halted :
    (let s := atBoundary { demo with halted := true } ⟨false, true, 0xFF, false⟩
     s.halted = true ∧ s.boundary.reset = false ∧ s.boundary.nmi = false ∧ s.nmiPending = false ∧
      ¬ (s.boundary.int = true ∧ s.iff1 = true ∧ s.eiPending = false)) := by decide

/-- AResetGoesBeforeAnyInterrupt: with both interrupts up as well. -/
theorem witness_reset : (atBoundary (enabled .im1) ⟨true, true, 0xFF, true⟩).boundary.reset = true := by decide

/-- TheResetStateIsLegalAndFixed has no hypothesis; the machine the host runs is this one. -/
theorem test_core : Sys2Proof.core.reset = State.reset := rfl

end Sys2Proof.Tests
end

section
/-!
What an instruction can do to the environment's fields, said once as the relation `Environment.Step`, and for every
instruction the source lists: it completes, and its next state is one such step away.
-/
namespace Sys2Proof

/-- The instructions the source lists (R140 to R147), the bytes that select a page among them. -/
def Instr.listed : Instr → Bool
  | .edUnlisted _ => false
  | .ixUnlisted _ _ _ => false
  | .iyUnlisted _ _ _ => false
  | _ => true

theorem Instr.listed_eq_false_iff {i : Instr} :
    i.listed = false ↔
      (∃ op, i = .edUnlisted op) ∨ (∃ op n1 n2, i = .ixUnlisted op n1 n2) ∨ ∃ op n1 n2, i = .iyUnlisted op n1 n2 := by
  constructor
  · intro h
    cases i with
    | edUnlisted op => exact .inl ⟨op, rfl⟩
    | ixUnlisted op n1 n2 => exact .inr (.inl ⟨op, n1, n2, rfl⟩)
    | iyUnlisted op n1 n2 => exact .inr (.inr ⟨op, n1, n2, rfl⟩)
    | _ => cases h
  · rintro (⟨op, rfl⟩ | ⟨op, n1, n2, rfl⟩ | ⟨op, n1, n2, rfl⟩) <;> rfl

namespace Machine

/-- The fields of the state that stand for what is outside the processor (logs 1, 5, 6, 7, 8), and the NMI latch. -/
structure Environment where
  cfg : Params
  inputs : List BoundaryInput
  nmiPending : Bool
  portIn : List Byte
  io : List IoEvent
  draws : Nat

def State.environment (s : State) : Environment :=
  ⟨s.cfg, s.inputs, s.nmiPending, s.portIn, s.io, s.draws⟩

/-- What one instruction can do to the environment: free values are taken in order, and there is one port access at most. -/
inductive Environment.Step (e : Environment) : Environment → Prop where
  | quiet (n : Nat) : Step e { e with draws := e.draws + n }
  | read (port : Word) (v : Byte) (n : Nat) :
    Step e { e with portIn := e.portIn.tail, io := e.io ++ [.read port v], draws := e.draws + n }
  | write (port : Word) (v : Byte) (n : Nat) :
    Step e { e with io := e.io ++ [.write port v], draws := e.draws + n }

/-- What no step of the environment changes, and what it adds at most. -/
theorem Environment.Step.frame {e e' : Environment} (h : e.Step e') :
    e'.cfg = e.cfg ∧ e'.inputs = e.inputs ∧ e'.nmiPending = e.nmiPending ∧ e.draws ≤ e'.draws ∧
      (e'.portIn = e.portIn ∨ e'.portIn = e.portIn.tail) ∧ (e'.io = e.io ∨ ∃ a, e'.io = e.io ++ [a]) := by
  cases h with
  | quiet n => exact ⟨rfl, rfl, rfl, Nat.le_add_right _ _, .inl rfl, .inl rfl⟩
  | read port v n => exact ⟨rfl, rfl, rfl, Nat.le_add_right _ _, .inr rfl, .inr ⟨_, rfl⟩⟩
  | write port v n => exact ⟨rfl, rfl, rfl, Nat.le_add_right _ _, .inl rfl, .inr ⟨_, rfl⟩⟩

/-! ### The operations that leave the environment as it is, where `rfl` does not see it -/

@[simp] theorem State.environment_setRp (s : State) (p : Rp) (v : Word) :
    (s.setRp p v).environment = s.environment := by
  cases p <;> rfl

@[simp] theorem State.environment_setRpPush (s : State) (p : RpPush) (v : Word) :
    (s.setRpPush p v).environment = s.environment := by
  cases p <;> rfl

@[simp] theorem State.environment_rotOperand (s : State) (o : Rot) (z : Operand8) :
    (s.rotOperand o z).environment = s.environment := by
  cases z <;> rfl

@[simp] theorem State.environment_returnFromHandler (s : State) (copies : Bool) :
    (s.returnFromHandler copies).environment = s.environment := by
  cases copies <;> rfl

@[simp] theorem State.environment_swapHlXy (s : State) (x : IndexReg) :
    (s.swapHlXy x).environment = s.environment := by
  cases x <;> rfl

/-- A conditional jump, call or return leaves the environment as both its outcomes do. -/
theorem State.environment_ite {c : Prop} [Decidable c] {s t u : State} (ht : t.environment = s.environment)
    (hu : u.environment = s.environment) : (if c then t else u).environment = s.environment := by
  split <;> assumption

/-! ### The operations that take free values or access a port -/

theorem Environment.Step.of_eq {e e' : Environment} (h : e' = e) : e.Step e' := by
  subst h
  exact .quiet 0

theorem Environment.Step.draws_add {e e' : Environment} (h : e.Step e') (k : Nat) :
    e.Step { e' with draws := e'.draws + k } := by
  cases h with
  | quiet n => simpa only [Nat.add_assoc] using Step.quiet (e := e) (n + k)
  | read port v n => simpa only [Nat.add_assoc] using Step.read (e := e) port v (n + k)
  | write port v n => simpa only [Nat.add_assoc] using Step.write (e := e) port v (n + k)

theorem Environment.Step.drawn {e : Environment} {s : State} (h : e.Step s.environment) :
    e.Step s.drawn.environment :=
  h.draws_add 1

/-- Open flags take one free value at most. -/
theorem Environment.Step.setOpenF {e : Environment} {s : State} (h : e.Step s.environment) (f : Flags)
    (o : Option (Bool × Bool)) : e.Step (s.setOpenF f o).environment := by
  unfold State.setOpenF State.openTaken
  split
  · exact h
  · exact h.drawn

/-- F after block I/O takes one free value at most. -/
theorem Environment.Step.setBlockIoF {e : Environment} {s : State} (h : e.Step s.environment) (b t j : Byte) :
    e.Step (s.setBlockIoF b t j).environment := by
  unfold State.setBlockIoF
  split
  · exact h
  · exact h.drawn

/-- The repetition of a block instruction moves pc alone. -/
theorem Environment.Step.repeatIf {e : Environment} {s : State} (h : e.Step s.environment) (again : Bool) :
    e.Step (s.repeatIf again).environment := by
  rw [State.repeatIf_eq]
  exact h

theorem State.environmentStep_afterPortRead (s : State) (port : Word) :
    s.environment.Step (s.afterPortRead port).environment := by
  rw [State.afterPortRead_eq]
  by_cases h : s.portIn = []
  · rw [if_pos h]
    exact .read port s.portAnswer 1
  · rw [if_neg h]
    exact .read port s.portAnswer 0

theorem State.environmentStep_portWrite (s : State) (port : Word) (v : Byte) :
    s.environment.Step (s.portWrite port v).environment :=
  .write port v 0

theorem State.environmentStep_blockLoad (s : State) (k : Dir) : s.environment.Step (s.blockLoad k).environment :=
  (Environment.Step.of_eq (by rfl)).setOpenF _ _

theorem State.environmentStep_blockCompare (s : State) (k : Dir) : s.environment.Step (s.blockCompare k).environment :=
  (Environment.Step.of_eq (by rfl)).setOpenF _ _

theorem State.environmentStep_blockIn (s : State) (k : Dir) : s.environment.Step (s.blockIn k).environment :=
  Environment.Step.setBlockIoF (by exact s.environmentStep_afterPortRead s.main.bc) _ _ _

theorem State.environmentStep_blockOut (s : State) (k : Dir) : s.environment.Step (s.blockOut k).environment :=
  Environment.Step.setBlockIoF
    (by exact s.environmentStep_portWrite (pair (s.main.b - 1) s.main.c) (s.readByte s.main.hl)) _ _ _

/-! ### Every listed instruction -/

/-- The answer of an instruction that completes, one `Environment.Step` from `s`. -/
def CompletesFrom (s : State) (r : Result) : Prop :=
  ∃ t, r = .next t ∧ s.environment.Step t.environment

theorem CompletesFrom.step {s t : State} {r : Result} (h : CompletesFrom s r) (ht : r = .next t) :
    s.environment.Step t.environment := by
  obtain ⟨u, rfl, step⟩ := h
  cases ht
  exact step

theorem execLdAR_completes (s : State) : CompletesFrom s (execLdAR s) := by
  unfold execLdAR
  split
  · exact ⟨_, rfl, .quiet 0⟩
  · exact ⟨_, rfl, .quiet 1⟩

/-- The instructions by what they touch outside the processor: nothing seen through a case split on an operand or a condition,
open flags, a port read, a port write, the block instructions; the rest update registers and memory alone. -/
theorem exec_listed_completes {i : Instr} (h : i.listed = true) (s : State) : CompletesFrom s (exec i s) := by
  cases i with
  | edUnlisted | ixUnlisted | iyUnlisted => cases h
  | ldRpNn | incRp | decRp | ldRpNnind => exact ⟨_, rfl, .of_eq (s.environment_setRp _ _)⟩
  | popRp2 p => exact ⟨_, rfl, .of_eq (s.popStack.environment_setRpPush p s.popValue)⟩
  | djnz | jrCc | retCc | jpCcNn | callCcNn => exact ⟨_, rfl, .of_eq (State.environment_ite rfl rfl)⟩
  | rlcR | rrcR | rlR | rrR | slaR | sraR | sllR | srlR => exact ⟨_, rfl, .of_eq (s.environment_rotOperand _ _)⟩
  | retn | reti => exact ⟨_, rfl, .of_eq (s.environment_returnFromHandler _)⟩
  | addHLRp | adcHLRp | sbcHLRp | addIXRr | addIYRr | cpR | cpN | cpIXd | cpIYd | scf | ccf
  | bitBR | bitBHLind | bitIXd | bitIYd => exact ⟨_, rfl, (Environment.Step.of_eq (by rfl)).setOpenF _ _⟩
  | ldAR => exact execLdAR_completes s
  | inRC | inFC | inAN => exact ⟨_, rfl, s.environmentStep_afterPortRead _⟩
  | outCR | outC0 | outNA => exact ⟨_, rfl, s.environmentStep_portWrite _ _⟩
  | ldi | ldd => exact ⟨_, rfl, s.environmentStep_blockLoad _⟩
  | cpi | cpd => exact ⟨_, rfl, s.environmentStep_blockCompare _⟩
  | ini | ind => exact ⟨_, rfl, s.environmentStep_blockIn _⟩
  | outi | outd => exact ⟨_, rfl, s.environmentStep_blockOut _⟩
  | ldir | lddr => exact ⟨_, rfl, (s.environmentStep_blockLoad _).repeatIf _⟩
  | cpir | cpdr => exact ⟨_, rfl, (s.environmentStep_blockCompare _).repeatIf _⟩
  | inir | indr => exact ⟨_, rfl, (s.environmentStep_blockIn _).repeatIf _⟩
  | otir | otdr => exact ⟨_, rfl, (s.environmentStep_blockOut _).repeatIf _⟩
  | _ => exact ⟨_, rfl, .of_eq rfl⟩

theorem exec_listed_step {i : Instr} {s t : State} (hi : i.listed = true) (h : exec i s = .next t) :
    s.environment.Step t.environment :=
  (exec_listed_completes hi s).step h

end Machine
end Sys2Proof
end

section
/-!
The encodings the source does not list: refused by name, or on silicon the meaning of a listed instruction (R141, R480).
From this and `exec_listed_completes`, which instructions are refused and what no instruction touches.
-/
namespace Sys2Proof.Machine

/-! ### Unlisted ED opcodes (R141) -/

theorem execEdUnlisted_refuse {s : State} (h : s.cfg.edUnlisted = .refuse) (op : Byte) :
    exec (.edUnlisted op) s = .refused (.edUnlisted op) := by
  change execEdUnlisted op s = _
  rw [execEdUnlisted, h]

theorem execEdUnlisted_silicon {s : State} (h : s.cfg.edUnlisted = .silicon) (op : Byte) :
    exec (.edUnlisted op) s = edSilicon op s := by
  change execEdUnlisted op s = _
  rw [execEdUnlisted, h]

/-- On silicon an unlisted ED opcode is NEG, RETN, IM or NOP. -/
theorem edSilicon_eq_exec (op : Byte) (s : State) :
    ∃ i : Instr, i.listed = true ∧ edSilicon op s = exec i s := by
  unfold edSilicon
  split
  · exact ⟨.nop, rfl, rfl⟩
  · split
    · exact ⟨.neg, rfl, rfl⟩
    · exact ⟨.retn, rfl, rfl⟩
    · split_ifs
      · exact ⟨.im0, rfl, rfl⟩
      · exact ⟨.im1, rfl, rfl⟩
      · exact ⟨.im2, rfl, rfl⟩
    · exact ⟨.nop, rfl, rfl⟩

theorem edSilicon_completes (op : Byte) (s : State) : CompletesFrom s (edSilicon op s) := by
  obtain ⟨i, hi, e⟩ := edSilicon_eq_exec op s
  rw [e]
  exact exec_listed_completes hi s

/-! ### Unlisted DD and FD opcodes (R142, R480) -/

theorem execIxUnlisted_refuse {s : State} (h : s.cfg.idxUnlisted = .refuse) (op n1 n2 : Byte) :
    exec (.ixUnlisted op n1 n2) s = .refused (.idxUnlisted op) := by
  change execIxUnlisted op n1 n2 s = _
  rw [execIxUnlisted, h]

theorem execIyUnlisted_refuse {s : State} (h : s.cfg.idxUnlisted = .refuse) (op n1 n2 : Byte) :
    exec (.iyUnlisted op n1 n2) s = .refused (.idxUnlisted op) := by
  change execIyUnlisted op n1 n2 s = _
  rw [execIyUnlisted, h]

theorem execIxUnlisted_silicon {s : State} (h : s.cfg.idxUnlisted = .silicon) (op n1 n2 : Byte) :
    exec (.ixUnlisted op n1 n2) s = idxSilicon .ix op n1 n2 s := by
  change execIxUnlisted op n1 n2 s = _
  rw [execIxUnlisted, h]

theorem execIyUnlisted_silicon {s : State} (h : s.cfg.idxUnlisted = .silicon) (op n1 n2 : Byte) :
    exec (.iyUnlisted op n1 n2) s = idxSilicon .iy op n1 n2 s := by
  change execIyUnlisted op n1 n2 s = _
  rw [execIyUnlisted, h]

/-- `execMain` has a meaning for the instruction. -/
def hasMainMeaning (op : Byte) (i : Instr) (s : State) : Bool :=
  match execMain op i s with
  | .next _ => true
  | _ => false

/-- Where `execMain` has a meaning it is that of a listed instruction. -/
theorem execMain_eq_exec {op : Byte} {i : Instr} {s : State} (h : hasMainMeaning op i s = true) :
    i.listed = true ∧ execMain op i s = exec i s := by
  cases i with
  | nop | ldRpNn | ldBCindA | incRp | incR | decR | ldRN | rlca | exAFAF | ldABCind | decRp | rrca | djnz
  | ldDEindA | rla | jr | ldADEind | rra | jrCc | daa | cpl | ldNnindA | scf | ldANnind | ccf | ldRR | halt
  | addAR | adcAR | subR | sbcAR | andR | xorR | orR | cpR | retCc | popRp2 | jpCcNn | jpNn | callCcNn | pushRp2
  | addAN | rst | ret | callNn | adcAN | outNA | subN | exx | inAN | sbcAN | andN | exDEHL | xorN | popAF | di
  | pushAF | orN | ei | cpN => exact ⟨rfl, rfl⟩
  | _ => exact absurd h Bool.false_ne_true

theorem execMain_next {op : Byte} {i : Instr} {s t : State} (h : execMain op i s = .next t) :
    s.environment.Step t.environment := by
  obtain ⟨hi, e⟩ := execMain_eq_exec (op := op) (i := i) (s := s) (by rw [hasMainMeaning, h])
  exact exec_listed_step hi (e.symm.trans h)

theorem swapBack_eq_next {x : IndexReg} {r : Result} {t : State} (h : swapBack x r = .next t) :
    ∃ u, r = .next u ∧ t = u.swapHlXy x := by
  cases r with
  | next u => exact ⟨u, rfl, (Host.Outcome.next.inj h).symm⟩
  | fault | refused => cases h

theorem idxSilicon_eq (x : IndexReg) (op n1 n2 : Byte) (s : State) :
    idxSilicon x op n1 n2 s =
      if namesHL (decodeMain op n1 n2).1 then swapBack x (execMain op (decodeMain op n1 n2).1 (s.swapHlXy x))
      else execMain op (decodeMain op n1 n2).1 s := rfl

/-- What an unlisted DD or FD opcode does on silicon to the environment: the exchange of HL and XY is not seen there. -/
theorem idxSilicon_next {x : IndexReg} {op n1 n2 : Byte} {s t : State} (h : idxSilicon x op n1 n2 s = .next t) :
    s.environment.Step t.environment := by
  rw [idxSilicon_eq] at h
  split at h
  · obtain ⟨u, hu, rfl⟩ := swapBack_eq_next h
    have step := execMain_next hu
    rwa [State.environment_swapHlXy] at step ⊢
  · exact execMain_next h

set_option maxRecDepth 100000 in
/-- Every opcode byte tried: outside the admitted set there is a meaning, whatever the operand bytes and the state. -/
theorem hasMainMeaning_all (n1 n2 : Byte) (s : State) :
    (List.range 256).all (fun k => !Laws.RoundTrip.unlistedIdx (BitVec.ofNat 8 k) ||
      hasMainMeaning (BitVec.ofNat 8 k) (decodeMain (BitVec.ofNat 8 k) n1 n2).1 s) = true := rfl

theorem hasMainMeaning_of_unlisted {op : Byte} (h : Laws.RoundTrip.unlistedIdx op = true) (n1 n2 : Byte) (s : State) :
    hasMainMeaning op (decodeMain op n1 n2).1 s = true := by
  have row := List.all_eq_true.mp (hasMainMeaning_all n1 n2 s) op.toNat (List.mem_range.mpr op.isLt)
  rw [BitVec.ofNat_toNat, BitVec.setWidth_eq, h] at row
  exact row

theorem execMain_completes {op : Byte} (h : Laws.RoundTrip.unlistedIdx op = true) (n1 n2 : Byte) (s : State) :
    ∃ t, execMain op (decodeMain op n1 n2).1 s = .next t := by
  obtain ⟨hi, e⟩ := execMain_eq_exec (hasMainMeaning_of_unlisted h n1 n2 s)
  obtain ⟨t, ht, -⟩ := exec_listed_completes hi s
  exact ⟨t, e.trans ht⟩

theorem idxSilicon_completes {op : Byte} (h : Laws.RoundTrip.unlistedIdx op = true) (x : IndexReg) (n1 n2 : Byte)
    (s : State) : ∃ t, idxSilicon x op n1 n2 s = .next t := by
  rw [idxSilicon_eq]
  split
  · obtain ⟨u, hu⟩ := execMain_completes h n1 n2 (s.swapHlXy x)
    exact ⟨u.swapHlXy x, by rw [hu, swapBack]⟩
  · exact execMain_completes h n1 n2 s

end Sys2Proof.Machine
end

section
/-!
The statements on the scope of an instruction: which ones are refused, what none touches.
-/
namespace Sys2Proof.Machine

/-- An instruction that its setting does not refuse completes. -/
theorem exec_completes {i : Instr} {s : State} (hwf : i.wf = true)
    (hed : ¬ ∃ op, i = .edUnlisted op ∧ s.cfg.edUnlisted = .refuse)
    (hidx : ¬ (s.cfg.idxUnlisted = .refuse ∧ ∃ op n1 n2, i = .ixUnlisted op n1 n2 ∨ i = .iyUnlisted op n1 n2)) :
    ∃ t, exec i s = .next t := by
  have idx {op n1 n2 : Byte} (hi : i = .ixUnlisted op n1 n2 ∨ i = .iyUnlisted op n1 n2) :
      s.cfg.idxUnlisted = .silicon := by
    cases e : s.cfg.idxUnlisted with
    | silicon => rfl
    | refuse => exact absurd ⟨e, op, n1, n2, hi⟩ hidx
  cases hl : i.listed with
  | true =>
    obtain ⟨t, ht, -⟩ := exec_listed_completes hl s
    exact ⟨t, ht⟩
  | false =>
    rcases Instr.listed_eq_false_iff.mp hl with ⟨op, rfl⟩ | ⟨op, n1, n2, rfl⟩ | ⟨op, n1, n2, rfl⟩
    · cases e : s.cfg.edUnlisted with
      | refuse => exact absurd ⟨op, rfl, e⟩ hed
      | silicon =>
        obtain ⟨t, ht, -⟩ := edSilicon_completes op s
        exact ⟨t, (execEdUnlisted_silicon e op).trans ht⟩
    · rw [execIxUnlisted_silicon (idx (.inl rfl))]
      exact idxSilicon_completes (Laws.RoundTrip.idxUnlistedWf_iff hwf).1 .ix n1 n2 s
    · rw [execIyUnlisted_silicon (idx (.inr rfl))]
      exact idxSilicon_completes (Laws.RoundTrip.idxUnlistedWf_iff hwf).1 .iy n1 n2 s

/-- Settles O6. Under a refusing setting the arm of an unlisted encoding is the refusal itself; every other instruction
completes, on silicon because an unlisted encoding means what a listed instruction means. -/
theorem onlyUnlistedEncodingsAreRefused : Obligations.OnlyUnlistedEncodingsAreRefused := by
  refine ⟨rfl, rfl, fun i s hwf => ?_⟩
  split
  next hed =>
    obtain ⟨op, rfl, setting⟩ := hed
    exact ⟨op, execEdUnlisted_refuse setting op, rfl⟩
  next hed =>
    split
    next hidx =>
      obtain ⟨setting, op, n1, n2, rfl | rfl⟩ := hidx
      · exact ⟨op, n1, n2, execIxUnlisted_refuse setting op n1 n2, .inl rfl⟩
      · exact ⟨op, n1, n2, execIyUnlisted_refuse setting op n1 n2, .inr rfl⟩
    next hidx => exact exec_completes hwf hed hidx

/-- Every instruction that completes, listed or not, takes one `Environment.Step`. -/
theorem exec_step {i : Instr} {s t : State} (h : exec i s = .next t) : s.environment.Step t.environment := by
  cases hl : i.listed with
  | true => exact exec_listed_step hl h
  | false =>
    rcases Instr.listed_eq_false_iff.mp hl with ⟨op, rfl⟩ | ⟨op, n1, n2, rfl⟩ | ⟨op, n1, n2, rfl⟩
    · cases e : s.cfg.edUnlisted with
      | refuse => cases (execEdUnlisted_refuse e op).symm.trans h
      | silicon => exact (edSilicon_completes op s).step ((execEdUnlisted_silicon e op).symm.trans h)
    · cases e : s.cfg.idxUnlisted with
      | refuse => cases (execIxUnlisted_refuse e op n1 n2).symm.trans h
      | silicon => exact idxSilicon_next ((execIxUnlisted_silicon e op n1 n2).symm.trans h)
    · cases e : s.cfg.idxUnlisted with
      | refuse => cases (execIyUnlisted_refuse e op n1 n2).symm.trans h
      | silicon => exact idxSilicon_next ((execIyUnlisted_silicon e op n1 n2).symm.trans h)

/-- Settles O9: the frame of `Environment.Step`, which every instruction takes. -/
theorem instructionsLeaveTheEnvironmentAlone : Obligations.InstructionsLeaveTheEnvironmentAlone :=
  fun _ _ _ h => (exec_step h).frame

end Sys2Proof.Machine
end

section
/-!
A step of a running machine against `decode`: what the decoder reads depends on no byte past the instruction, so fetching
at pc and decoding the bytes from pc on agree byte by byte.
-/
namespace Sys2Proof

/-! ### What the decoder looks at -/

/-- How many bytes of page `p` the instruction that begins with `b0` takes: the opcode byte alone says it (R130). -/
def pageLength (p : Page) (b0 : Byte) : Nat := (decodeOn p b0 0 0).2

/-- What is decoded when every byte past the instruction's length is read as 0. -/
def decodeTrimmed (p : Page) (b0 b1 b2 : Byte) : Instr × Nat :=
  ((decodeOn p b0 (if 2 ≤ pageLength p b0 then b1 else 0) (if 3 ≤ pageLength p b0 then b2 else 0)).1, pageLength p b0)

/-- The operand bytes past the instruction's length are not looked at, nor do operands change that length. -/
def ReadsItsOwnBytes (p : Page) (b0 : Byte) : Prop :=
  ∀ b1 b2 : Byte, decodeOn p b0 b1 b2 = decodeTrimmed p b0 b1 b2

theorem readsItsOwnBytes_main (b0 : Byte) : ReadsItsOwnBytes .main b0 := by
  refine Laws.RoundTrip.byte_cases (P := ReadsItsOwnBytes .main) (fun k b1 b2 => ?_) b0
  fin_cases k <;> rfl

theorem readsItsOwnBytes_ed (b0 : Byte) : ReadsItsOwnBytes .ed b0 := by
  refine Laws.RoundTrip.byte_cases (P := ReadsItsOwnBytes .ed) (fun k b1 b2 => ?_) b0
  fin_cases k <;> rfl

theorem readsItsOwnBytes_ix (b0 : Byte) : ReadsItsOwnBytes .ix b0 := by
  refine Laws.RoundTrip.byte_cases (P := ReadsItsOwnBytes .ix) (fun k b1 b2 => ?_) b0
  fin_cases k <;> rfl

theorem readsItsOwnBytes_iy (b0 : Byte) : ReadsItsOwnBytes .iy b0 := by
  refine Laws.RoundTrip.byte_cases (P := ReadsItsOwnBytes .iy) (fun k b1 b2 => ?_) b0
  fin_cases k <;> rfl

theorem readsItsOwnBytes (p : Page) (b0 : Byte) : ReadsItsOwnBytes p b0 := by
  cases p with
  | main => exact readsItsOwnBytes_main b0
  | cb => exact fun _ _ => rfl
  | ed => exact readsItsOwnBytes_ed b0
  | ix => exact readsItsOwnBytes_ix b0
  | iy => exact readsItsOwnBytes_iy b0

/-- Operand bytes that agree within the instruction's length decode alike. -/
theorem decodeOn_congr {p : Page} {b0 b1 b2 c1 c2 : Byte} (h1 : 2 ≤ (decodeOn p b0 b1 b2).2 → c1 = b1)
    (h2 : 3 ≤ (decodeOn p b0 b1 b2).2 → c2 = b2) : decodeOn p b0 c1 c2 = decodeOn p b0 b1 b2 := by
  rw [readsItsOwnBytes p b0 b1 b2] at h1 h2 ⊢
  have byte1 : (if 2 ≤ pageLength p b0 then c1 else 0) = if 2 ≤ pageLength p b0 then b1 else 0 :=
    ite_congr rfl h1 fun _ => rfl
  have byte2 : (if 3 ≤ pageLength p b0 then c2 else 0) = if 3 ≤ pageLength p b0 then b2 else 0 :=
    ite_congr rfl h2 fun _ => rfl
  rw [readsItsOwnBytes p b0 c1 c2, decodeTrimmed, decodeTrimmed, byte1, byte2]

namespace Machine

/-! ### The bytes from an address on -/

@[simp] theorem State.length_bytesFrom (s : State) (addr : Word) (count : Nat) :
    (s.bytesFrom addr count).length = count := by
  induction count generalizing addr with
  | zero => rfl
  | succ count ih => simp [State.bytesFrom, ih]

theorem State.bytesFrom_getD {s : State} {addr : Word} {count k : Nat} (h : k < count) :
    (s.bytesFrom addr count).getD k 0 = s.readByte (addr + BitVec.ofNat 16 k) := by
  induction count generalizing addr k with
  | zero => omega
  | succ count ih =>
    cases k with
    | zero => simp [State.bytesFrom]
    | succ k =>
      rw [State.bytesFrom, List.getD_cons_succ, ih (by omega), BitVec.add_assoc, BitVec.add_comm 1, BitVec.ofNat_add]
      rfl

theorem State.bytesFrom_of_mem {s t : State} (h : t.mem = s.mem) (addr : Word) (count : Nat) :
    t.bytesFrom addr count = s.bytesFrom addr count := by
  induction count generalizing addr with
  | zero => rfl
  | succ count ih => rw [State.bytesFrom, State.bytesFrom, ih, State.readByte_of_mem h]

/-! ### Fetch and decode agree -/

/-- Where the bytes at pc hold a whole instruction of page `p`, fetching it and decoding them is the same. -/
theorem State.fetch_eq_decodeOn {s : State} {p : Page} {count : Nat} (rest : List Byte)
    (hrest : rest = s.bytesFrom (s.pc + 1) count)
    (h : (decodeOn p (s.readByte s.pc) (rest.getD 0 0) (rest.getD 1 0)).2 ≤ count + 1) :
    s.fetch p = decodeOn p (s.readByte s.pc) (rest.getD 0 0) (rest.getD 1 0) := by
  subst hrest
  refine decodeOn_congr (fun two => ?_) (fun three => ?_)
  · rw [State.bytesFrom_getD (by omega)]
    simp
  · rw [State.bytesFrom_getD (by omega), BitVec.add_assoc]
    rfl

/-- The state on which an instruction of `d`'s length runs, R having become `r` (R10). -/
def State.pastInstr (s : State) (d : Decoded) (r : Byte) : State :=
  { s with pc := s.pc + BitVec.ofNat 16 d.len, r := r, eiPending := false }

/-- A byte that selects a page, then the rest of the instruction: one byte longer. -/
theorem State.pastInstr_advance (s : State) (d : Decoded) (r : Byte) :
    (s.advance 1).pastInstr d r = s.pastInstr { d with len := d.len + 1, fetches := d.fetches + 1 } r := by
  rw [State.pastInstr, State.pastInstr, State.advance_eq, BitVec.add_assoc, ← BitVec.ofNat_add, Nat.add_comm]

/-- Reading an instruction from memory, page by page, runs what the decoder makes of the bytes at pc. The induction is on
the bytes given: each byte that selects a page is passed over by both. -/
theorem runInstr_of_decodeFrom {fuel count : Nat} {p : Page} {s : State} {d : Decoded} (hfuel : count ≤ fuel)
    (h : decodeFrom (count + 1) p (s.bytesFrom s.pc count) = .ok d) :
    ∃ r, RCounts s.r r d.fetches ∧ runInstr fuel p s = exec d.instr (s.pastInstr d r) := by
  induction count generalizing fuel p s d with
  | zero => cases h
  | succ count ih =>
    obtain ⟨fuel, rfl⟩ : ∃ k, fuel = k + 1 := ⟨fuel - 1, by omega⟩
    rw [State.bytesFrom] at h
    cases hp : pageSelected p (s.readByte s.pc) with
    | none =>
      rw [decodeFrom_instr hp, State.length_bytesFrom] at h
      split at h
      · cases h
      next whole =>
        cases h
        refine ⟨nextR s.r, RCounts_nextR s.r, ?_⟩
        rw [runInstr_instr hp, State.fetch_eq_decodeOn (count := count) _ rfl (by omega)]
        rfl
    | some q =>
      rw [decodeFrom_page hp] at h
      cases hd : decodeFrom (count + 1) q (s.bytesFrom (s.pc + 1) count) with
      | error e => rw [hd] at h; cases h
      | ok d' =>
        rw [hd] at h
        cases h
        rw [← State.bytesFrom_of_mem (t := s.advance 1) (s := s) rfl] at hd
        obtain ⟨r, hr, run⟩ := ih (s := s.advance 1) (fuel := fuel) (by omega) hd
        have counts : RCounts s.r r (1 + d'.fetches) := RCounts_trans (RCounts_nextR s.r) hr
        rw [Nat.add_comm] at counts
        refine ⟨r, counts, ?_⟩
        rw [runInstr_page hp, run, State.pastInstr_advance]

/-- Settles O4, by induction on the bytes at pc. -/
theorem aRunningStepExecutesTheDecodedInstruction : Obligations.ARunningStepExecutesTheDecodedInstruction := by
  intro s count d undisturbed bound h
  rw [decode, State.length_bytesFrom] at h
  rw [step_undisturbed undisturbed]
  rw [← State.bytesFrom_of_mem (t := { s with inputs := s.inputs.tail }) (s := s) rfl] at h
  exact runInstr_of_decodeFrom (s := { s with inputs := s.inputs.tail }) bound h

end Machine
end Sys2Proof
end

section
/-!
Bit 7 of R, the interrupt enables and the canonical form of memory along a step. Five instructions write R or the enables;
every other one leaves both alone and writes memory byte by byte, which is said once as the relation `KeepsControl`.
-/
namespace Sys2Proof.Machine

/-- `t` has R and the interrupt enables of `s`, and memory in canonical form if `s` has. -/
structure KeepsControl (s t : State) : Prop where
  refresh : t.r = s.r
  iff1 : t.iff1 = s.iff1
  iff2 : t.iff2 = s.iff2
  eiPending : t.eiPending = s.eiPending
  memory : s.mem.wf = true → t.mem.wf = true

/-- The instructions that write R or the interrupt enables (R303, R304, R379, R380, R383). -/
def writesControl : Instr → Bool
  | .ldRA | .di | .ei | .retn | .reti => true
  | _ => false

/-- A state that differs in other registers alone. -/
theorem KeepsControl.of_eq {s t : State}
    (h : (t.r, t.iff1, t.iff2, t.eiPending, t.mem) = (s.r, s.iff1, s.iff2, s.eiPending, s.mem)) : KeepsControl s t := by
  simp only [Prod.mk.injEq] at h
  obtain ⟨hr, h1, h2, he, hm⟩ := h
  exact ⟨hr, h1, h2, he, fun wf => by rwa [hm]⟩

theorem KeepsControl.trans {s t u : State} (h : KeepsControl s t) (h' : KeepsControl t u) : KeepsControl s u :=
  ⟨h'.refresh.trans h.refresh, h'.iff1.trans h.iff1, h'.iff2.trans h.iff2, h'.eiPending.trans h.eiPending,
    fun wf => h'.memory (h.memory wf)⟩

/-! ### The operations, where `rfl` does not see it -/

theorem State.keepsControl_setRp (s : State) (p : Rp) (v : Word) : KeepsControl s (s.setRp p v) := by
  rw [State.setRp_eq]
  exact .of_eq rfl

theorem State.keepsControl_setRpPush (s : State) (p : RpPush) (v : Word) : KeepsControl s (s.setRpPush p v) := by
  rw [State.setRpPush_eq]
  exact .of_eq rfl

theorem State.keepsControl_swapHlXy (s : State) (x : IndexReg) : KeepsControl s (s.swapHlXy x) := by
  cases x <;> exact .of_eq rfl

theorem KeepsControl.setOpenF {s t : State} (h : KeepsControl s t) (f : Flags) (o : Option (Bool × Bool)) :
    KeepsControl s (t.setOpenF f o) := by
  rw [State.setOpenF_eq]
  exact h.trans (.of_eq rfl)

theorem State.keepsControl_afterPortRead (s : State) (port : Word) : KeepsControl s (s.afterPortRead port) := by
  rw [State.afterPortRead_eq]
  exact .of_eq rfl

theorem KeepsControl.repeatIf {s t : State} (h : KeepsControl s t) (again : Bool) :
    KeepsControl s (t.repeatIf again) := by
  rw [State.repeatIf_eq]
  exact h.trans (.of_eq rfl)

theorem State.keepsControl_writeByte (s : State) (a : Word) (v : Byte) : KeepsControl s (s.writeByte a v) :=
  ⟨rfl, rfl, rfl, rfl, fun wf => State.wf_writeByte wf a v⟩

theorem State.keepsControl_push (s : State) (v : Word) : KeepsControl s (s.push v) :=
  ⟨rfl, rfl, rfl, rfl, fun wf => State.wf_push wf v⟩

theorem State.keepsControl_call (s : State) (target : Word) : KeepsControl s (s.call target) :=
  ⟨rfl, rfl, rfl, rfl, fun wf => State.wf_push wf s.pc⟩

theorem State.keepsControl_rotOperand (s : State) (o : Rot) (z : Operand8) : KeepsControl s (s.rotOperand o z) := by
  cases z with
  | reg r => exact .of_eq rfl
  | hlInd => exact ⟨rfl, rfl, rfl, rfl, fun wf => State.wf_writeByte wf s.main.hl _⟩

/-- A conditional jump, call or return keeps what both its outcomes keep. -/
theorem KeepsControl.ite {c : Prop} [Decidable c] {s t u : State} (ht : KeepsControl s t) (hu : KeepsControl s u) :
    KeepsControl s (if c then t else u) := by
  split <;> assumption

theorem State.keepsControl_blockLoad (s : State) (k : Dir) : KeepsControl s (s.blockLoad k) :=
  KeepsControl.setOpenF (by exact (s.keepsControl_writeByte s.main.de (s.readByte s.main.hl)).trans (.of_eq rfl)) _ _

theorem State.keepsControl_blockCompare (s : State) (k : Dir) : KeepsControl s (s.blockCompare k) :=
  KeepsControl.setOpenF (.of_eq (by rfl)) _ _

theorem State.keepsControl_blockIn (s : State) (k : Dir) : KeepsControl s (s.blockIn k) := by
  rw [State.blockIn_eq]
  exact ⟨rfl, rfl, rfl, rfl, fun wf => State.wf_writeByte wf s.main.hl s.portAnswer⟩

theorem State.keepsControl_blockOut (s : State) (k : Dir) : KeepsControl s (s.blockOut k) := by
  rw [State.blockOut_eq]
  exact .of_eq rfl

/-! ### Every instruction -/

theorem execLdAR_keepsControl (s : State) : ∃ t, execLdAR s = .next t ∧ KeepsControl s t := by
  unfold execLdAR
  split
  · exact ⟨_, rfl, .of_eq rfl⟩
  · exact ⟨_, rfl, .of_eq rfl⟩

/-- The listed instructions by what they write: memory, open flags, the port record, or registers alone. -/
theorem exec_listed_keepsControl {i : Instr} (hi : i.listed = true) (hc : writesControl i = false) (s : State) :
    ∃ t, exec i s = .next t ∧ KeepsControl s t := by
  cases i with
  | edUnlisted | ixUnlisted | iyUnlisted => cases hi
  | ldRA | di | ei | retn | reti => cases hc
  | ldRpNn | incRp | decRp | ldRpNnind => exact ⟨_, rfl, s.keepsControl_setRp _ _⟩
  | popRp2 p => exact ⟨_, rfl, .trans (.of_eq (by rfl)) (s.popStack.keepsControl_setRpPush p s.popValue)⟩
  | ldBCindA | ldDEindA | ldNnindA | ldHLindN | ldHLindR | ldIXdN | ldIYdN | ldIXdR | ldIYdR | incHLind | decHLind
  | incIXd | decIXd | incIYd | decIYd | resBHLind | setBHLind | resIXd | setIXd | resIYd | setIYd | resIXdR | setIXdR
  | resIYdR | setIYdR | rotIXd | rotIYd | rotIXdR | rotIYdR | rrd | rld =>
    exact ⟨_, rfl, rfl, rfl, rfl, rfl, fun wf => State.wf_writeByte wf _ _⟩
  | ldNnindHL | ldNnindRp | ldNnindIX | ldNnindIY =>
    exact ⟨_, rfl, rfl, rfl, rfl, rfl, fun wf => State.wf_writeWord wf _ _⟩
  | exSPindHL | exSPindIX | exSPindIY => exact ⟨_, rfl, rfl, rfl, rfl, rfl, fun wf => State.wf_exchangeTop wf _⟩
  | pushRp2 | pushAF | pushIX | pushIY => exact ⟨_, rfl, s.keepsControl_push _⟩
  | callNn | rst => exact ⟨_, rfl, s.keepsControl_call _⟩
  | callCcNn cc nn => exact ⟨_, rfl, .ite (s.keepsControl_call nn) (.of_eq rfl)⟩
  | djnz | jrCc | retCc | jpCcNn => exact ⟨_, rfl, .ite (.of_eq rfl) (.of_eq rfl)⟩
  | rlcR | rrcR | rlR | rrR | slaR | sraR | sllR | srlR => exact ⟨_, rfl, s.keepsControl_rotOperand _ _⟩
  | addHLRp | adcHLRp | sbcHLRp | addIXRr | addIYRr | cpR | cpN | cpIXd | cpIYd | scf | ccf
  | bitBR | bitBHLind | bitIXd | bitIYd =>
    exact ⟨_, rfl, KeepsControl.setOpenF (.of_eq (by rfl)) _ _⟩
  | ldAR => exact execLdAR_keepsControl s
  | inRC | inFC => exact ⟨_, rfl, (s.keepsControl_afterPortRead s.main.bc).trans (.of_eq rfl)⟩
  | inAN n => exact ⟨_, rfl, (s.keepsControl_afterPortRead (pair s.main.a n)).trans (.of_eq rfl)⟩
  | ldi | ldd => exact ⟨_, rfl, s.keepsControl_blockLoad _⟩
  | cpi | cpd => exact ⟨_, rfl, s.keepsControl_blockCompare _⟩
  | ini | ind => exact ⟨_, rfl, s.keepsControl_blockIn _⟩
  | outi | outd => exact ⟨_, rfl, s.keepsControl_blockOut _⟩
  | ldir | lddr => exact ⟨_, rfl, (s.keepsControl_blockLoad _).repeatIf _⟩
  | cpir | cpdr => exact ⟨_, rfl, (s.keepsControl_blockCompare _).repeatIf _⟩
  | inir | indr => exact ⟨_, rfl, (s.keepsControl_blockIn _).repeatIf _⟩
  | otir | otdr => exact ⟨_, rfl, (s.keepsControl_blockOut _).repeatIf _⟩
  | _ => exact ⟨_, rfl, .of_eq rfl⟩

/-- On silicon an unlisted ED opcode is one and the same listed instruction in every state, and none that reaches IX, IY, the
alternate set or R (R141). -/
theorem edSilicon_meaning (op : Byte) :
    ∃ i ∈ [Instr.nop, .neg, .retn, .im0, .im1, .im2], ∀ s, edSilicon op s = exec i s := by
  have nop : Instr.nop ∈ [Instr.nop, .neg, .retn, .im0, .im1, .im2] := by decide
  by_cases hx : fieldX op ≠ 1
  · exact ⟨.nop, nop, fun s => if_pos hx⟩
  · simp only [edSilicon, if_neg hx]
    split
    · exact ⟨.neg, by decide, fun _ => rfl⟩
    · exact ⟨.retn, by decide, fun _ => rfl⟩
    · split_ifs
      · exact ⟨.im0, by decide, fun _ => rfl⟩
      · exact ⟨.im1, by decide, fun _ => rfl⟩
      · exact ⟨.im2, by decide, fun _ => rfl⟩
    · exact ⟨.nop, nop, fun _ => rfl⟩

/-- Where `execMain` has a meaning in one state it is that of a MAIN-page instruction in every state. -/
theorem execMain_meaning {op : Byte} {i : Instr} {s t : State} (h : execMain op i s = .next t) :
    i.listed = true ∧ i.page = .main ∧ ∀ u, execMain op i u = exec i u := by
  cases i with
  | nop | ldRpNn | ldBCindA | incRp | incR | decR | ldRN | rlca | exAFAF | ldABCind | decRp | rrca | djnz
  | ldDEindA | rla | jr | ldADEind | rra | jrCc | daa | cpl | ldNnindA | scf | ldANnind | ccf | ldRR | halt
  | addAR | adcAR | subR | sbcAR | andR | xorR | orR | cpR | retCc | popRp2 | jpCcNn | jpNn | callCcNn | pushRp2
  | addAN | rst | ret | callNn | adcAN | outNA | subN | exx | inAN | sbcAN | andN | exDEHL | xorN | popAF | di
  | pushAF | orN | ei | cpN => exact ⟨rfl, rfl, fun _ => rfl⟩
  | _ => cases h

/-- An unlisted DD or FD opcode that has a meaning means one and the same MAIN-page instruction in every state, with HL and XY
exchanged around it or not (R480). -/
theorem idxSilicon_meaning {x : IndexReg} {op n1 n2 : Byte} {s t : State} (h : idxSilicon x op n1 n2 s = .next t) :
    ∃ i : Instr, i.listed = true ∧ i.page = .main ∧
      ((∀ u, idxSilicon x op n1 n2 u = exec i u) ∨
        ∀ u, idxSilicon x op n1 n2 u = swapBack x (exec i (u.swapHlXy x))) := by
  simp only [idxSilicon_eq] at h ⊢
  split at h
  next names =>
    obtain ⟨u, hu, -⟩ := swapBack_eq_next h
    obtain ⟨listed, page, same⟩ := execMain_meaning hu
    exact ⟨_, listed, page, .inr fun u => by rw [if_pos names, same]⟩
  next names =>
    obtain ⟨listed, page, same⟩ := execMain_meaning h
    exact ⟨_, listed, page, .inl fun u => by rw [if_neg names, same]⟩

/-- Whatever an instruction does, a listed one does, with HL and an index register exchanged around it or not; it is LD R, A
only if the instruction is. -/
theorem exec_next_meaning {i : Instr} {s t : State} (h : exec i s = .next t) :
    ∃ j : Instr, j.listed = true ∧ (j = .ldRA → i = .ldRA) ∧
      (exec j s = .next t ∨ ∃ x u, exec j (s.swapHlXy x) = .next u ∧ t = u.swapHlXy x) := by
  have idx {x : IndexReg} {op n1 n2 : Byte} (hx : idxSilicon x op n1 n2 s = .next t) :
      ∃ j : Instr, j.listed = true ∧ (j = .ldRA → i = .ldRA) ∧
        (exec j s = .next t ∨ ∃ x u, exec j (s.swapHlXy x) = .next u ∧ t = u.swapHlXy x) := by
    obtain ⟨j, listed, page, meaning⟩ := idxSilicon_meaning hx
    refine ⟨j, listed, fun e => absurd page (by rw [e]; decide), ?_⟩
    rcases meaning with plain | swapped
    · exact .inl ((plain s).symm.trans hx)
    · exact .inr ⟨x, swapBack_eq_next ((swapped s).symm.trans hx)⟩
  cases hl : i.listed with
  | true => exact ⟨i, hl, id, .inl h⟩
  | false =>
    rcases Instr.listed_eq_false_iff.mp hl with ⟨op, rfl⟩ | ⟨op, n1, n2, rfl⟩ | ⟨op, n1, n2, rfl⟩
    · cases e : s.cfg.edUnlisted with
      | refuse => cases (execEdUnlisted_refuse e op).symm.trans h
      | silicon =>
        obtain ⟨j, mem, same⟩ := edSilicon_meaning op
        have listed : ∀ j ∈ [Instr.nop, .neg, .retn, .im0, .im1, .im2], j.listed = true ∧ j ≠ .ldRA := by decide
        exact ⟨j, (listed j mem).1, fun e => absurd e (listed j mem).2,
          .inl ((same s).symm.trans ((execEdUnlisted_silicon e op).symm.trans h))⟩
    · cases e : s.cfg.idxUnlisted with
      | refuse => cases (execIxUnlisted_refuse e op n1 n2).symm.trans h
      | silicon => exact idx ((execIxUnlisted_silicon e op n1 n2).symm.trans h)
    · cases e : s.cfg.idxUnlisted with
      | refuse => cases (execIyUnlisted_refuse e op n1 n2).symm.trans h
      | silicon => exact idx ((execIyUnlisted_silicon e op n1 n2).symm.trans h)

/-! ### Legality -/

/-- A legal state in which the delay of EI is over: what the frame of an instruction leaves of a legal state (R10, R36). -/
structure Ready (s : State) : Prop where
  memory : s.mem.wf = true
  enables : s.iff1 = true → s.iff2 = true
  noDelay : s.eiPending = false

theorem KeepsControl.ready {s t : State} (h : KeepsControl s t) (hs : Ready s) : Ready t :=
  ⟨h.memory hs.memory, by rw [h.iff1, h.iff2]; exact hs.enables, h.eiPending.trans hs.noDelay⟩

theorem KeepsControl.legal {s t : State} (h : KeepsControl s t) (hs : Legal s) : Legal t :=
  ⟨h.memory hs.memory, by rw [h.iff1, h.iff2]; exact hs.enables, by rw [h.eiPending, h.iff1]; exact hs.delay⟩

theorem Ready.legal {s : State} (h : Ready s) : Legal s :=
  ⟨h.memory, h.enables, fun e => absurd (h.noDelay.symm.trans e) Bool.false_ne_true⟩

theorem Legal.ready_pastInstr {s : State} (h : Legal s) (d : Decoded) (r : Byte) : Ready (s.pastInstr d r) :=
  ⟨h.memory, h.enables, rfl⟩

/-- RETN and RETI leave IFF1 as IFF2 or as it was. -/
theorem Ready.returnFromHandler {s : State} (h : Ready s) (copies : Bool) : Ready (s.returnFromHandler copies) := by
  rw [State.returnFromHandler_eq]
  cases copies with
  | false => exact ⟨h.memory, h.enables, h.noDelay⟩
  | true => exact ⟨h.memory, id, h.noDelay⟩

theorem exec_listed_legal {i : Instr} {s t : State} (hi : i.listed = true) (hs : Ready s) (h : exec i s = .next t) :
    Legal t := by
  cases hc : writesControl i with
  | false =>
    obtain ⟨u, hu, keeps⟩ := exec_listed_keepsControl hi hc s
    cases hu.symm.trans h
    exact (keeps.ready hs).legal
  | true =>
    cases i with
    | ldRA => cases h; exact Ready.legal ⟨hs.memory, hs.enables, hs.noDelay⟩
    | di => cases h; exact Ready.legal ⟨hs.memory, id, hs.noDelay⟩
    | ei => cases h; exact ⟨hs.memory, fun _ => rfl, fun _ => rfl⟩
    | retn | reti => cases h; exact (hs.returnFromHandler _).legal
    | _ => cases hc

theorem exec_legal {i : Instr} {s t : State} (hs : Ready s) (h : exec i s = .next t) : Legal t := by
  obtain ⟨j, hj, -, plain | ⟨x, u, swapped, rfl⟩⟩ := exec_next_meaning h
  · exact exec_listed_legal hj hs plain
  · exact (u.keepsControl_swapHlXy x).legal (exec_listed_legal hj ((s.keepsControl_swapHlXy x).ready hs) swapped)

/-! ### R -/

theorem exec_listed_refresh {i : Instr} {s t : State} (hi : i.listed = true) (hr : i ≠ .ldRA) (h : exec i s = .next t) :
    t.r = s.r := by
  cases hc : writesControl i with
  | false =>
    obtain ⟨u, hu, keeps⟩ := exec_listed_keepsControl hi hc s
    cases hu.symm.trans h
    exact keeps.refresh
  | true =>
    cases i with
    | ldRA => exact absurd rfl hr
    | di | ei => cases h; rfl
    | retn | reti => cases h; rw [State.returnFromHandler_eq]
    | _ => cases hc

/-- Only LD R, A writes R; the count of fetches is no part of an instruction's meaning. -/
theorem exec_refresh {i : Instr} {s t : State} (hr : i ≠ .ldRA) (h : exec i s = .next t) : t.r = s.r := by
  obtain ⟨j, hj, only, plain | ⟨x, u, swapped, rfl⟩⟩ := exec_next_meaning h
  · exact exec_listed_refresh hj (fun e => hr (only e)) plain
  · calc
      (u.swapHlXy x).r = u.r := (u.keepsControl_swapHlXy x).refresh
      _ = (s.swapHlXy x).r := exec_listed_refresh hj (fun e => hr (only e)) swapped
      _ = s.r := (s.keepsControl_swapHlXy x).refresh

/-! ### The instruction a step runs -/

/-- The converse of `runInstr_of_decodeFrom`: a run that completes has decoded an instruction from the bytes at pc and run it.
The induction is on the bytes that select a page; three bytes hold whatever instruction follows them. -/
theorem runInstr_next {fuel : Nat} {p : Page} {s t : State} (h : runInstr fuel p s = .next t) :
    ∃ (count : Nat) (d : Decoded) (r : Byte), decodeFrom (count + 1) p (s.bytesFrom s.pc count) = .ok d ∧
      RCounts s.r r d.fetches ∧ exec d.instr (s.pastInstr d r) = .next t := by
  induction fuel generalizing p s with
  | zero => cases h
  | succ fuel ih =>
    cases hp : pageSelected p (s.readByte s.pc) with
    | none =>
      rw [runInstr_instr hp] at h
      refine ⟨3, ⟨(s.fetch p).1, (s.fetch p).2, 1⟩, nextR s.r, ?_, RCounts_nextR s.r, h⟩
      obtain ⟨-, -, -, short⟩ := decodeOn_shape p (s.readByte s.pc) ((s.bytesFrom (s.pc + 1) 2).getD 0 0)
        ((s.bytesFrom (s.pc + 1) 2).getD 1 0)
      rw [State.bytesFrom, decodeFrom_instr hp, State.length_bytesFrom, if_neg (by omega),
        State.fetch_eq_decodeOn (count := 2) _ rfl short]
    | some q =>
      rw [runInstr_page hp] at h
      obtain ⟨count, d, r, hd, hr, run⟩ := ih h
      rw [State.bytesFrom_of_mem (t := s.advance 1) (s := s) rfl] at hd
      refine ⟨count + 1, { d with len := d.len + 1, fetches := d.fetches + 1 }, r, ?_, ?_, ?_⟩
      · rw [State.bytesFrom, decodeFrom_page hp]
        exact congrArg (Except.map _) hd
      · have counts : RCounts s.r r (1 + d.fetches) := RCounts_trans (RCounts_nextR s.r) hr
        rwa [Nat.add_comm] at counts
      · rwa [State.pastInstr_advance] at run

/-- A step that runs an instruction and completes: which one, and on what state. -/
theorem step_undisturbed_next {s t : State} (undisturbed : s.Undisturbed) (h : step s = .next t) :
    ∃ (count : Nat) (d : Decoded) (r : Byte), decode (s.bytesFrom s.pc count) = .ok d ∧ RCounts s.r r d.fetches ∧
      exec d.instr (({ s with inputs := s.inputs.tail } : State).pastInstr d r) = .next t := by
  rw [step_undisturbed undisturbed] at h
  obtain ⟨count, d, r, hd, hr, run⟩ := runInstr_next h
  refine ⟨count, d, r, ?_, hr, run⟩
  rw [decode, State.length_bytesFrom, ← State.bytesFrom_of_mem (t := { s with inputs := s.inputs.tail }) (s := s) rfl]
  exact hd

/-! ### Interrupt entry -/

/-- What accepting an interrupt leaves of R, the enables and memory, whatever the handler's address. -/
structure Accepts (s t : State) : Prop where
  refresh : t.r = nextR s.r
  iff1 : t.iff1 = false
  eiPending : t.eiPending = false
  memory : s.mem.wf = true → t.mem.wf = true

theorem State.accepts_enterHandler (s : State) (q : Request) (target : Word) : Accepts s (s.enterHandler q target) := by
  rw [State.enterHandler_eq]
  cases q <;> exact ⟨rfl, rfl, rfl, fun wf => State.wf_push wf s.pc⟩

theorem State.intEntry_next {s t : State} {b : Byte} (h : s.intEntry b = .next t) : Accepts s t := by
  unfold State.intEntry at h
  split at h
  · split at h
    · cases h; exact s.accepts_enterHandler _ _
    · cases h
  · cases h; exact s.accepts_enterHandler _ _
  · cases h; exact ⟨rfl, rfl, rfl, fun wf => State.wf_push wf s.pc⟩

theorem Accepts.legal {s t : State} (h : Accepts s t) (wf : s.mem.wf = true) : Legal t :=
  ⟨h.memory wf, fun e => absurd (h.iff1.symm.trans e) Bool.false_ne_true,
    fun e => absurd (h.eiPending.symm.trans e) Bool.false_ne_true⟩

/-- Settles O7, by the cases of a step: a reset and an interrupt entry put the enables down, a halted step touches none of
them, and an instruction begins with EI's delay over. -/
theorem everyStepKeepsTheStateLegal : Obligations.EveryStepKeepsTheStateLegal := by
  intro s t legal h
  rcases step_cases s with ⟨-, e⟩ | ⟨-, -, e⟩ | ⟨-, -, e⟩ | ⟨-, -, e⟩ | ⟨undisturbed, -⟩
  · cases e.symm.trans h
    exact ⟨legal.memory, id, id⟩
  · cases e.symm.trans h
    exact (s.sampled.accepts_enterHandler .nmi 0x0066).legal legal.memory
  · exact (State.intEntry_next (e.symm.trans h)).legal legal.memory
  · cases e.symm.trans h
    exact ⟨legal.memory, legal.enables, legal.delay⟩
  · obtain ⟨-, d, r, -, -, run⟩ := step_undisturbed_next undisturbed h
    have legal' : Legal { s with inputs := s.inputs.tail } := ⟨legal.memory, legal.enables, legal.delay⟩
    exact exec_legal (legal'.ready_pastInstr d r) run

/-- Settles O8. -/
theorem theResetStateIsLegalAndFixed : Obligations.TheResetStateIsLegalAndFixed :=
  ⟨⟨rfl, id, id⟩, rfl, rfl, rfl, rfl, rfl, rfl, rfl, rfl, rfl⟩

/-- Settles O12: a fetch, an acceptance and a halted step count R's low seven bits, and of the instructions only LD R, A
writes R. -/
theorem onlyLdRAChangesBitSevenOfR : Obligations.OnlyLdRAChangesBitSevenOfR := by
  intro s t noReset h
  have counted : t.r = nextR s.r → t.r.toNat / 128 = s.r.toNat / 128 := fun e => e ▸ (RCounts_nextR s.r).1
  rcases step_cases s with ⟨reset, -⟩ | ⟨-, -, e⟩ | ⟨-, -, e⟩ | ⟨-, -, e⟩ | ⟨undisturbed, -⟩
  · exact absurd (noReset.symm.trans reset) Bool.false_ne_true
  · cases e.symm.trans h
    exact .inl (counted (s.sampled.accepts_enterHandler .nmi 0x0066).refresh)
  · exact .inl (counted (State.intEntry_next (e.symm.trans h)).refresh)
  · cases e.symm.trans h
    exact .inl (counted rfl)
  · obtain ⟨count, d, r, decoded, ⟨bitSeven, -⟩, run⟩ := step_undisturbed_next undisturbed h
    by_cases hd : d.instr = .ldRA
    · exact .inr ⟨undisturbed, count, d, decoded, hd⟩
    · have kept : t.r = r := exec_refresh hd run
      exact .inl (kept ▸ bitSeven)

end Sys2Proof.Machine
end

section
/-!
IX, IY and the alternate set: an instruction that does not reach one of them commutes with an update of it, which says at once
that the instruction neither reads it nor writes it.
-/
namespace Sys2Proof.Machine

/-- An update of a register most instructions do not reach: the alternate set, IX or IY. -/
inductive Aside where
  | alt (b : Bank)
  | ix (v : Word)
  | iy (v : Word)

/-- The state with that register replaced. -/
def State.put (s : State) : Aside → State
  | .alt b => s.setAlt b
  | .ix v => s.setIx v
  | .iy v => s.setIy v

/-- The instructions that may reach it (R22, R23); an unlisted DD or FD opcode may be an exchange. -/
def Aside.ReachedBy (i : Instr) : Aside → Prop
  | .alt _ => i = .exAFAF ∨ i = .exx ∨ (i.listed = false ∧ i.page ≠ .ed)
  | .ix _ => i.page = .ix
  | .iy _ => i.page = .iy

/-! ### The operations that `rfl` does not see commute -/

theorem State.put_draws (s : State) (k : Aside) : (s.put k).draws = s.draws := by cases k <;> rfl
theorem State.put_cfg (s : State) (k : Aside) : (s.put k).cfg = s.cfg := by cases k <;> rfl

theorem State.put_setRp (s : State) (k : Aside) (p : Rp) (v : Word) : (s.put k).setRp p v = (s.setRp p v).put k := by
  cases k <;> cases p <;> rfl

theorem State.put_rotOperand (s : State) (k : Aside) (o : Rot) (z : Operand8) :
    (s.put k).rotOperand o z = (s.rotOperand o z).put k := by
  cases k <;> cases z <;> rfl

theorem State.put_returnFromHandler (s : State) (k : Aside) (copies : Bool) :
    (s.put k).returnFromHandler copies = (s.returnFromHandler copies).put k := by
  cases k <;> cases copies <;> rfl

theorem State.put_setOpenF (s : State) (k : Aside) (f : Flags) (o : Option (Bool × Bool)) :
    (s.put k).setOpenF f o = (s.setOpenF f o).put k := by
  rw [State.setOpenF_of (s := s) (s.put_draws k) (s.put_cfg k), State.setOpenF_eq]
  cases k <;> rfl

theorem State.put_setBlockIoF (s : State) (k : Aside) (b t j : Byte) :
    (s.put k).setBlockIoF b t j = (s.setBlockIoF b t j).put k := by
  cases h : s.cfg.blockIoFlags with
  | silicon =>
    rw [State.setBlockIoF_silicon h, State.setBlockIoF_silicon (by rw [State.put_cfg, h])]
    cases k <;> rfl
  | draw =>
    rw [State.setBlockIoF_draw h, State.setBlockIoF_draw (by rw [State.put_cfg, h])]
    cases k <;> rfl

theorem State.put_afterPortRead (s : State) (k : Aside) (port : Word) :
    (s.put k).afterPortRead port = (s.afterPortRead port).put k := by
  rw [State.afterPortRead_eq, State.afterPortRead_eq]
  cases k <;> rfl

theorem State.put_blockLoad (s : State) (k : Aside) (d : Dir) : (s.put k).blockLoad d = (s.blockLoad d).put k := by
  unfold State.blockLoad
  rw [← State.put_setOpenF]
  cases k <;> rfl

theorem State.put_blockCompare (s : State) (k : Aside) (d : Dir) :
    (s.put k).blockCompare d = (s.blockCompare d).put k := by
  unfold State.blockCompare
  rw [← State.put_setOpenF]
  cases k <;> rfl

theorem State.put_blockIn (s : State) (k : Aside) (d : Dir) : (s.put k).blockIn d = (s.blockIn d).put k := by
  unfold State.blockIn
  rw [← State.put_setBlockIoF, State.put_afterPortRead]
  cases k <;> rfl

theorem State.put_blockOut (s : State) (k : Aside) (d : Dir) : (s.put k).blockOut d = (s.blockOut d).put k := by
  unfold State.blockOut
  rw [← State.put_setBlockIoF]
  cases k <;> rfl

/-! ### Every instruction -/

/-- The answer `r` is a next state and `r'` is that state with the register replaced. -/
def PutsThrough (k : Aside) (r r' : Result) : Prop := ∃ t, r = .next t ∧ r' = .next (t.put k)

theorem PutsThrough.of_eq {k : Aside} {t u : State} (h : u = t.put k) : PutsThrough k (.next t) (.next u) :=
  ⟨t, rfl, congrArg _ h⟩

theorem PutsThrough.ite {k : Aside} {c : Prop} [Decidable c] {t u t' u' : State} (ht : t' = t.put k)
    (hu : u' = u.put k) : PutsThrough k (.next (if c then t else u)) (.next (if c then t' else u')) := by
  subst ht hu
  exact .of_eq (apply_ite (State.put · k) c t u).symm

theorem PutsThrough.setOpenF {k : Aside} {t u : State} {f g : Flags} {o o' : Option (Bool × Bool)} (h : u = t.put k)
    (hf : g = f) (ho : o' = o) : PutsThrough k (.next (t.setOpenF f o)) (.next (u.setOpenF g o')) := by
  subst h hf ho
  exact .of_eq (State.put_setOpenF _ _ _ _)

theorem PutsThrough.repeatIf {k : Aside} {t u : State} {again again' : Bool} (h : u = t.put k) (ha : again' = again) :
    PutsThrough k (.next (t.repeatIf again)) (.next (u.repeatIf again')) := by
  subst h ha
  exact .of_eq (by cases k <;> cases again' <;> rfl)

theorem execLdAR_puts (s : State) (k : Aside) : PutsThrough k (execLdAR s) (execLdAR (s.put k)) := by
  unfold execLdAR
  rw [State.put_cfg]
  split <;> exact .of_eq (by cases k <;> rfl)

theorem exec_listed_puts {i : Instr} {k : Aside} (hi : i.listed = true) (hk : ¬ k.ReachedBy i) (s : State) :
    PutsThrough k (exec i s) (exec i (s.put k)) := by
  cases i with
  | edUnlisted | ixUnlisted | iyUnlisted => cases hi
  | exAFAF =>
    cases k with
    | alt => exact absurd (.inl rfl) hk
    | ix | iy => exact .of_eq rfl
  | exx =>
    cases k with
    | alt => exact absurd (.inr (.inl rfl)) hk
    | ix | iy => exact .of_eq rfl
  | addIXRr | cpIXd | bitIXd =>
    cases k with
    | ix => exact absurd rfl hk
    | alt | iy => exact .setOpenF (by rfl) (by rfl) (by rfl)
  | ldIXNn | ldNnindIX | incIX | ldIXNnind | decIX | incIXd | decIXd | ldIXdN | ldRIXd | ldIXdR | addAIXd | adcAIXd
  | subIXd | sbcAIXd | andIXd | xorIXd | orIXd | ddPrefixAfterDd | popIX | exSPindIX | pushIX | jpIX | edPrefixAfterDd
  | ldSPIX | fdPrefixAfterDd | rotIXdR | rotIXd | resIXdR | resIXd | setIXdR | setIXd =>
    cases k with
    | ix => exact absurd rfl hk
    | alt | iy => exact .of_eq rfl
  | addIYRr | cpIYd | bitIYd =>
    cases k with
    | iy => exact absurd rfl hk
    | alt | ix => exact .setOpenF (by rfl) (by rfl) (by rfl)
  | ldIYNn | ldNnindIY | incIY | ldIYNnind | decIY | incIYd | decIYd | ldIYdN | ldRIYd | ldIYdR | addAIYd | adcAIYd
  | subIYd | sbcAIYd | andIYd | xorIYd | orIYd | ddPrefixAfterFd | popIY | exSPindIY | pushIY | jpIY | edPrefixAfterFd
  | ldSPIY | fdPrefixAfterFd | rotIYdR | rotIYd | resIYdR | resIYd | setIYdR | setIYd =>
    cases k with
    | iy => exact absurd rfl hk
    | alt | ix => exact .of_eq rfl
  | addHLRp | adcHLRp | sbcHLRp | cpR | cpN | scf | ccf | bitBR | bitBHLind =>
    cases k <;> exact .setOpenF (by rfl) (by rfl) (by rfl)
  | ldRpNn | incRp | decRp | ldRpNnind => cases k <;> exact .of_eq (State.put_setRp s _ _ _)
  | popRp2 p => cases p <;> cases k <;> exact .of_eq rfl
  | djnz | jrCc | retCc | jpCcNn | callCcNn => cases k <;> exact .ite (by rfl) (by rfl)
  | rlcR | rrcR | rlR | rrR | slaR | sraR | sllR | srlR => exact .of_eq (s.put_rotOperand k _ _)
  | retn => exact .of_eq (s.put_returnFromHandler k true)
  | reti => cases k <;> exact .of_eq (s.put_returnFromHandler _ s.cfg.retiCopiesIff2)
  | ldAR => exact execLdAR_puts s k
  | inRC | inFC | inAN =>
    refine .of_eq ?_
    rw [State.put_afterPortRead]
    cases k <;> rfl
  | ldi | ldd => exact .of_eq (s.put_blockLoad k _)
  | cpi | cpd => exact .of_eq (s.put_blockCompare k _)
  | ini | ind => exact .of_eq (s.put_blockIn k _)
  | outi | outd => exact .of_eq (s.put_blockOut k _)
  | ldir | lddr => cases k <;> exact .repeatIf (s.put_blockLoad _ _) (by rfl)
  | cpir | cpdr => cases k <;> exact .repeatIf (s.put_blockCompare _ _) (by rfl)
  | inir | indr => cases k <;> exact .repeatIf (s.put_blockIn _ _) (by rfl)
  | otir | otdr => cases k <;> exact .repeatIf (s.put_blockOut _ _) (by rfl)
  | _ => cases k <;> exact .of_eq rfl

theorem exec_listed_put {i : Instr} {k : Aside} {s t : State} (hi : i.listed = true) (hk : ¬ k.ReachedBy i)
    (h : exec i s = .next t) : exec i (s.put k) = .next (t.put k) := by
  obtain ⟨u, hu, puts⟩ := exec_listed_puts hi hk s
  cases hu.symm.trans h
  exact puts

theorem edSilicon_put {op : Byte} {k : Aside} {s t : State} (h : edSilicon op s = .next t) :
    edSilicon op (s.put k) = .next (t.put k) := by
  obtain ⟨i, mem, same⟩ := edSilicon_meaning op
  have plain : ∀ i ∈ [Instr.nop, .neg, .retn, .im0, .im1, .im2], i.listed = true ∧ i ≠ .exAFAF ∧ i ≠ .exx ∧
    i.page ≠ .ix ∧ i.page ≠ .iy := by decide
  obtain ⟨listed, ne_ex, ne_exx, ne_ix, ne_iy⟩ := plain i mem
  rw [same] at h ⊢
  refine exec_listed_put listed ?_ h
  cases k with
  | alt =>
    rintro (e | e | ⟨unlisted, -⟩)
    · exact ne_ex e
    · exact ne_exx e
    · exact absurd (listed.symm.trans unlisted) (by decide)
  | ix => exact ne_ix
  | iy => exact ne_iy

/-- The update is of the index register other than `x`. -/
def Aside.OtherThan (x : IndexReg) : Aside → Prop
  | .alt _ => False
  | .ix _ => x = .iy
  | .iy _ => x = .ix

theorem State.put_swapHlXy {x : IndexReg} {k : Aside} (hk : k.OtherThan x) (s : State) :
    (s.put k).swapHlXy x = (s.swapHlXy x).put k := by
  cases k with
  | alt => cases hk
  | ix | iy => cases hk; rfl

/-- An unlisted opcode of one index page does not reach the other index register. -/
theorem idxSilicon_put {x : IndexReg} {op n1 n2 : Byte} {k : Aside} {s t : State} (hk : k.OtherThan x)
    (h : idxSilicon x op n1 n2 s = .next t) : idxSilicon x op n1 n2 (s.put k) = .next (t.put k) := by
  obtain ⟨i, listed, main, meaning⟩ := idxSilicon_meaning h
  have apart : ¬ k.ReachedBy i := by
    cases k with
    | alt => cases hk
    | ix | iy => intro page; cases main.symm.trans page
  rcases meaning with plain | swapped
  · rw [plain] at h ⊢
    exact exec_listed_put listed apart h
  · rw [swapped] at h ⊢
    obtain ⟨u, hu, rfl⟩ := swapBack_eq_next h
    rw [State.put_swapHlXy hk, exec_listed_put listed apart hu, swapBack, State.put_swapHlXy hk]

/-- An instruction that does not reach the register runs the same whatever stands there. -/
theorem exec_put {i : Instr} {k : Aside} {s t : State} (hk : ¬ k.ReachedBy i) (h : exec i s = .next t) :
    exec i (s.put k) = .next (t.put k) := by
  cases hl : i.listed with
  | true => exact exec_listed_put hl hk h
  | false =>
    rcases Instr.listed_eq_false_iff.mp hl with ⟨op, rfl⟩ | ⟨op, n1, n2, rfl⟩ | ⟨op, n1, n2, rfl⟩
    · cases e : s.cfg.edUnlisted with
      | refuse => cases (execEdUnlisted_refuse e op).symm.trans h
      | silicon =>
        rw [execEdUnlisted_silicon (by rw [State.put_cfg, e])]
        exact edSilicon_put ((execEdUnlisted_silicon e op).symm.trans h)
    · cases e : s.cfg.idxUnlisted with
      | refuse => cases (execIxUnlisted_refuse e op n1 n2).symm.trans h
      | silicon =>
        rw [execIxUnlisted_silicon (by rw [State.put_cfg, e])]
        refine idxSilicon_put ?_ ((execIxUnlisted_silicon e op n1 n2).symm.trans h)
        cases k with
        | alt => exact absurd (.inr (.inr ⟨hl, nofun⟩)) hk
        | ix => exact absurd rfl hk
        | iy => rfl
    · cases e : s.cfg.idxUnlisted with
      | refuse => cases (execIyUnlisted_refuse e op n1 n2).symm.trans h
      | silicon =>
        rw [execIyUnlisted_silicon (by rw [State.put_cfg, e])]
        refine idxSilicon_put ?_ ((execIyUnlisted_silicon e op n1 n2).symm.trans h)
        cases k with
        | alt => exact absurd (.inr (.inr ⟨hl, nofun⟩)) hk
        | ix => rfl
        | iy => exact absurd rfl hk

/-- Nor does it write the register: with the register's own value put there the state is the same. -/
theorem exec_put_self {i : Instr} {k : Aside} {s t : State} (hk : ¬ k.ReachedBy i) (self : s.put k = s)
    (h : exec i s = .next t) : t = t.put k := by
  have put := exec_put hk h
  rw [self] at put
  exact Host.Outcome.next.inj (h.symm.trans put)

/-- Settles O10, by `exec_put` for IX and for IY. -/
theorem onlyItsOwnPageReachesAnIndexRegister : Obligations.OnlyItsOwnPageReachesAnIndexRegister := by
  intro i s t v h
  refine ⟨fun page => ⟨?_, exec_put (k := .ix v) page h⟩, fun page => ⟨?_, exec_put (k := .iy v) page h⟩⟩
  · exact (congrArg State.ix (exec_put_self (k := .ix s.ix) page rfl h) :)
  · exact (congrArg State.iy (exec_put_self (k := .iy s.iy) page rfl h) :)

/-- Settles O11, by `exec_put` for the alternate set. -/
theorem onlyTheExchangesReachTheAlternateSet : Obligations.OnlyTheExchangesReachTheAlternateSet := by
  intro i s t b h ne_ex ne_exx no_idx
  have apart : ∀ b, ¬ (Aside.alt b).ReachedBy i := by
    rintro b (e | e | ⟨unlisted, page⟩)
    · exact ne_ex e
    · exact ne_exx e
    · rcases Instr.listed_eq_false_iff.mp unlisted with ⟨op, rfl⟩ | ⟨op, n1, n2, rfl⟩ | ⟨op, n1, n2, rfl⟩
      · exact page rfl
      · exact (no_idx op n1 n2).1 rfl
      · exact (no_idx op n1 n2).2 rfl
  exact ⟨(congrArg State.alt (exec_put_self (apart s.alt) rfl h) :), exec_put (apart b) h⟩

end Sys2Proof.Machine
end

section
/-!
8-bit arithmetic and logic: each form of an operation runs the operation on its operand, and what the operation computes is
the flag law for it (`add8_spec` and its kin).
-/
namespace Sys2Proof.Machine

/-- Settles O22: all eight forms write A and F from ADD8. -/
theorem additionsHoldTheExactSum : Obligations.AdditionsHoldTheExactSum := by
  intro s r n d p hp
  have run : exec p.1 s = .next (s.setAF (add8 s.main.a p.2.1 p.2.2)) := by
    fin_cases hp <;> rfl
  obtain ⟨sum, half, overflow, sub, shows⟩ := add8_spec s.main.a p.2.1 p.2.2
  exact ⟨_, run, rfl, sum, half, overflow, sub, shows⟩

/-- Settles O23: all nine forms write A and F from SUB8, NEG with 0 in place of A. -/
theorem subtractionsHoldTheExactDifference : Obligations.SubtractionsHoldTheExactDifference := by
  intro s r n d p hp
  have run : exec p.1 s = .next (s.setAF (sub8 p.2.1 p.2.2.1 p.2.2.2)) := by
    fin_cases hp <;> rfl
  obtain ⟨difference, half, overflow, sub, shows⟩ := sub8_spec p.2.1 p.2.2.1 p.2.2.2
  exact ⟨_, run, rfl, difference, half, overflow, sub, shows⟩

/-- The flags of a comparison: those of the difference without a borrow in. -/
theorem sub8_compare (a b : Byte) :
    ((sub8 a b false).2.z = true ↔ a = b) ∧ ((sub8 a b false).2.c = true ↔ a.toNat < b.toNat) ∧
    ((sub8 a b false).2.s = true ↔ (a - b).toInt < 0) ∧
    ((sub8 a b false).2.h = true ↔ a.toNat % 16 < b.toNat % 16) ∧
    ((sub8 a b false).2.pv = true ↔ a.toInt - b.toInt < -128 ∨ 127 < a.toInt - b.toInt) ∧
    (sub8 a b false).2.n = true := by
  have res : a - b - BitVec.ofNat 8 false.toNat = a - b := by simp
  obtain ⟨-, half, overflow, sub, -⟩ := sub8_spec a b false
  refine ⟨?_, ?_, ?_, by simpa using half, by simpa using overflow, sub⟩
  · simp only [sub8, res, decide_eq_true_eq, sub_eq_zero]
  · simp [sub8]
  · simp only [sub8, res, sign_byte, decide_eq_true_eq]

/-- Settles O24: all four forms compare, with the operand as silicon's source of Y and X. -/
theorem comparesKeepTheAccumulator : Obligations.ComparesKeepTheAccumulator := by
  intro s r n d p hp
  have run : exec p.1 s = .next (s.aluCp p.2) := by
    fin_cases hp <;> rfl
  obtain ⟨zero, carry, sign, half, overflow, sub⟩ := sub8_compare s.main.a p.2
  rw [State.aluCp_eq] at run
  refine ⟨_, run, rfl, zero, carry, sign, half, overflow, sub, fun silicon => ?_⟩
  rw [State.openXY_silicon silicon, State.openTaken_silicon silicon]
  exact ⟨rfl, rfl, rfl⟩

/-- Settles O25: all twelve forms write A and F from LOGIC. -/
theorem logicSetsParityAndClearsCarry : Obligations.LogicSetsParityAndClearsCarry := by
  intro s r n d v hv
  have run : exec v.1 s = .next (s.setAF (v.2.1, logic8 v.2.1 v.2.2)) := by
    fin_cases hv <;> rfl
  obtain ⟨shows, half, parity, sub, carry⟩ := logic8_spec v.2.1 v.2.2
  exact ⟨_, run, rfl, shows, half, parity, sub, carry⟩

@[simp] theorem Bank.reg_setF (b : Bank) (f : Flags) (q : Reg8) : (b.setF f).reg q = b.reg q := by
  cases q <;> rfl

/-- Settles O26, by the flag laws of INC8 and DEC8. -/
theorem registersCountByOneAndKeepCarry : Obligations.RegistersCountByOneAndKeepCarry := by
  intro s r
  obtain ⟨incremented, shows, half, overflow, sub, carry⟩ := inc8_spec (s.reg r) s.main.f
  obtain ⟨decremented, shows', half', overflow', sub', carry'⟩ := dec8_spec (s.reg r) s.main.f
  have reg (v : Byte) (f : Flags) (q : Reg8) :
      ((s.main.setReg r v).setF f).reg q = if q = r then v else s.reg q := by
    rw [Bank.reg_setF, Bank.reg_setReg]
    rfl
  exact ⟨_, _, rfl, rfl, rfl, fun q => incremented ▸ reg _ _ q, shows, half, overflow, sub, carry,
    rfl, fun q => decremented ▸ reg _ _ q, shows', half', overflow', sub', carry'⟩

/-- A state whose memory is that of a store of one byte. -/
theorem State.storesByte {s t : State} (wf : s.mem.wf = true) {addr : Word} {v : Byte}
    (h : t.mem = s.mem.write addr.toNat v) : StoresByte s t addr v := by
  intro a
  rw [State.readByte_of_mem (s := s.writeByte addr v) h, State.readByte_writeByte wf]

/-- Settles O27: the three forms of each count the byte at their address. -/
theorem memoryBytesCountByOneAndKeepCarry : Obligations.MemoryBytesCountByOneAndKeepCarry := by
  intro s d wf
  constructor
  · intro p hp
    have run : exec p.1 s = .next (s.incAt p.2) := by
      fin_cases hp <;> rfl
    obtain ⟨-, shows, half, overflow, sub, carry⟩ := inc8_spec (s.readByte p.2) s.main.f
    exact ⟨_, run, rfl, State.storesByte wf rfl, shows, half, overflow, sub, carry⟩
  · intro p hp
    have run : exec p.1 s = .next (s.decAt p.2) := by
      fin_cases hp <;> rfl
    obtain ⟨-, shows, half, overflow, sub, carry⟩ := dec8_spec (s.readByte p.2) s.main.f
    exact ⟨_, run, rfl, State.storesByte wf rfl, shows, half, overflow, sub, carry⟩

/-- Settles O30: CPL is its own record update; SCF and CCF leave Y and X open. -/
theorem complementAndCarryInstructions : Obligations.ComplementAndCarryInstructions := by
  intro s
  refine ⟨_, _, _, rfl, rfl, rfl, rfl, ?_, ?_⟩
  · rw [State.setOpenF_eq]
    rfl
  · rw [State.setOpenF_eq]
    rfl

end Sys2Proof.Machine
end

section
/-!
16-bit arithmetic: the sum or difference with its carries, Y and X open.
-/
namespace Sys2Proof.Machine

/-- Y and X of `t` are open in `s`, `o` being silicon's, and `t` has taken the free value they need (R44). -/
def OpensXY (s t : State) (o : Option (Bool × Bool)) : Prop :=
  t.main.f.y = (s.openXY o).1 ∧ t.main.f.x = (s.openXY o).2 ∧ t.draws = (s.openTaken o).draws

theorem OpensXY.silicon {s t : State} {v : Bool × Bool} (h : OpensXY s t (some v)) (silicon : s.cfg.xyOpen = .silicon) :
    t.main.f.y = v.1 ∧ t.main.f.x = v.2 ∧ t.draws = s.draws := by
  rwa [OpensXY, State.openXY_silicon silicon, State.openTaken_silicon silicon] at h

/-- What `t` says of a 16-bit addition in `s`: its result, C, H, N, the flags it keeps, and silicon's Y and X. -/
def WideSum (s t : State) (a b res : Word) : Prop :=
  res.toNat + 65536 * t.main.f.c.toNat = a.toNat + b.toNat ∧
  (t.main.f.h = true ↔ 4096 ≤ a.toNat % 4096 + b.toNat % 4096) ∧ t.main.f.n = false ∧
  t.main.f.s = s.main.f.s ∧ t.main.f.z = s.main.f.z ∧ t.main.f.pv = s.main.f.pv ∧
  (s.cfg.xyOpen = .silicon → t.main.f.y = res.getLsbD 13 ∧ t.main.f.x = res.getLsbD 11 ∧ t.draws = s.draws)

theorem WideSum.of_add16 {s t : State} {a b res : Word} (hres : res = (add16 a b s.main.f).1)
    (hf : t.main.f = { (add16 a b s.main.f).2 with y := t.main.f.y, x := t.main.f.x })
    (opens : OpensXY s t (some (bits1311 (add16 a b s.main.f).1))) : WideSum s t a b res := by
  obtain ⟨sum, half, -⟩ := add16_spec a b s.main.f
  subst hres
  refine ⟨?_, ?_, ?_, ?_, ?_, ?_, opens.silicon⟩ <;> rw [hf]
  · exact sum
  · exact half
  all_goals rfl

theorem wideSum_setHlOpenF (s : State) (b : Word) :
    WideSum s (s.setHlOpenF (add16 s.main.hl b s.main.f)) s.main.hl b
      (s.setHlOpenF (add16 s.main.hl b s.main.f)).main.hl := by
  rw [State.setHlOpenF_eq]
  exact .of_add16 (pair_hi_lo _) rfl ⟨rfl, rfl, rfl⟩

theorem wideSum_setXyOpenF (s : State) (x : IndexReg) (b : Word) :
    WideSum s (s.setXyOpenF x (add16 (s.xy x) b s.main.f)) (s.xy x) b
      ((s.setXyOpenF x (add16 (s.xy x) b s.main.f)).xy x) := by
  rw [State.setXyOpenF_eq]
  cases x <;> exact .of_add16 rfl rfl ⟨rfl, rfl, rfl⟩

theorem State.setHlOpenF_frame (s : State) (r : Word × Flags) :
    s.setHlOpenF r = { s with
      main := { s.main with
        h := (s.setHlOpenF r).main.h, l := (s.setHlOpenF r).main.l, f := (s.setHlOpenF r).main.f }
      draws := (s.setHlOpenF r).draws } := by
  rw [State.setHlOpenF_eq]

/-- Settles O31: three additions, each a `WideSum`. -/
theorem wideAdditionsKeepSignZeroParity : Obligations.WideAdditionsKeepSignZeroParity := by
  intro s p x
  refine ⟨_, _, _, rfl, rfl, rfl, s.setHlOpenF_frame _, ?_, ?_, fun e he => ?_⟩
  · rw [State.setXyOpenF_eq]
    rfl
  · rw [State.setXyOpenF_eq]
    rfl
  · fin_cases he
    · exact wideSum_setHlOpenF s (s.rp p)
    · exact wideSum_setXyOpenF s .ix (s.rpIndex .ix x)
    · exact wideSum_setXyOpenF s .iy (s.rpIndex .iy x)

/-- What every 16-bit operation on HL with carry in `t` says of its result: S and Z, and silicon's Y and X. -/
def ShowsWideResult (s t : State) : Prop :=
  t = { s with main := { s.main with h := t.main.h, l := t.main.l, f := t.main.f }, draws := t.draws } ∧
  (t.main.f.s = true ↔ (pair t.main.h t.main.l).toInt < 0) ∧ (t.main.f.z = true ↔ pair t.main.h t.main.l = 0) ∧
  (s.cfg.xyOpen = .silicon →
    t.main.f.y = t.main.h.getLsbD 5 ∧ t.main.f.x = t.main.h.getLsbD 3 ∧ t.draws = s.draws)

theorem showsWideResult_setHlOpenF {s : State} {r : Word × Flags} (sign : r.2.s = true ↔ r.1.toInt < 0)
    (zero : r.2.z = true ↔ r.1 = 0) : ShowsWideResult s (s.setHlOpenF r) := by
  refine ⟨s.setHlOpenF_frame r, ?_⟩
  rw [State.setHlOpenF_eq]
  refine ⟨by rwa [pair_hi_lo], by rwa [pair_hi_lo], fun silicon => ?_⟩
  rw [State.openXY_silicon silicon, State.openTaken_silicon silicon]
  simp [bits1311, hi]

/-- Settles O32, by the flag laws of ADC16 and SBC16. -/
theorem wideAdditionsAndSubtractionsWithCarry : Obligations.WideAdditionsAndSubtractionsWithCarry := by
  intro s p
  obtain ⟨sum, half, overflow, sub, sign, zero⟩ := adc16_spec s.main.hl (s.rp p) s.main.f
  obtain ⟨difference, half', overflow', sub', sign', zero'⟩ := sbc16_spec s.main.hl (s.rp p) s.main.f
  refine ⟨_, _, rfl, rfl, ?_, ?_⟩
  · intro e he
    fin_cases he
    · exact showsWideResult_setHlOpenF sign zero
    · exact showsWideResult_setHlOpenF sign' zero'
  · rw [State.setHlOpenF_eq, State.setHlOpenF_eq, pair_hi_lo, pair_hi_lo]
    exact ⟨sum, half, overflow, sub, difference, half', overflow', sub'⟩

end Sys2Proof.Machine
end

section
/-!
Rotates, shifts and bit tests on a register or a byte of memory; the conditions; the loads of I and R.
-/
namespace Sys2Proof.Machine

theorem State.rotResult_eq (s : State) (o : Rot) (v : Byte) :
    s.rotResult o v = (rotated o v s.main.f.c s.cfg.sllBit0, carriedOut o v) :=
  rot_spec o v s.main.f.c s.cfg.sllBit0

/-- Settles O34: all eight are the rotate `rot_spec` speaks of, written back to the register or to the byte at HL. -/
theorem rotatesAndShiftsOfRegisterOrMemory : Obligations.RotatesAndShiftsOfRegisterOrMemory := by
  intro s z wf p hp
  have run : exec p.1 s = .next (s.rotOperand p.2 z) := by
    fin_cases hp <;> rfl
  obtain ⟨shows, half, parity, sub, carry⟩ :=
    rotFlags_spec (rotated p.2 (s.operand z) s.main.f.c s.cfg.sllBit0) (carriedOut p.2 (s.operand z))
  cases z with
  | reg r =>
    rw [State.rotOperand_reg, State.rotResult_eq] at run
    refine ⟨_, _, run, rfl, shows, half, parity, sub, carry, fun r' e => ?_, nofun⟩
    cases e
    refine ⟨rfl, fun q => ?_⟩
    rw [State.reg, Bank.reg_setF, Bank.reg_setReg]
    rfl
  | hlInd =>
    rw [State.rotOperand_hlInd, State.rotResult_eq] at run
    exact ⟨_, _, run, rfl, shows, half, parity, sub, carry, nofun, fun _ => ⟨rfl, State.storesByte wf rfl⟩⟩

/-- `t` is `s` after the rotate or shift `o` of the byte at `addr`, whose result is also in the register `dst`, if any. -/
def RotatesAt (s t : State) (o : Rot) (addr : Word) (dst : Option Reg8) (res : Byte) : Prop :=
  t = { s with mem := t.mem, main := t.main } ∧ StoresByte s t addr res ∧
  (∀ q, t.reg q = if some q = dst then res else s.reg q) ∧
  ShowsResult t.main.f res ∧ t.main.f.h = false ∧ (t.main.f.pv = true ↔ onesIn res % 2 = 0) ∧
  t.main.f.n = false ∧ t.main.f.c = carriedOut o (s.readByte addr)

theorem rotatesAt_rotXyd {s : State} (wf : s.mem.wf = true) (x : IndexReg) (o : Rot) (d : Byte) :
    RotatesAt s (s.rotXyd x o d) o (s.ea x d) none
      (rotated o (s.readByte (s.ea x d)) s.main.f.c s.cfg.sllBit0) := by
  rw [State.rotXyd_eq, State.rotResult_eq]
  exact ⟨rfl, State.storesByte wf rfl, fun q => Bank.reg_setF s.main _ q, rotFlags_spec _ _⟩

theorem rotatesAt_rotXydReg {s : State} (wf : s.mem.wf = true) (x : IndexReg) (o : Rot) (d : Byte) (r : Reg8) :
    RotatesAt s (s.rotXydReg x o d r) o (s.ea x d) (some r)
      (rotated o (s.readByte (s.ea x d)) s.main.f.c s.cfg.sllBit0) := by
  rw [State.rotXydReg_eq, State.rotResult_eq]
  refine ⟨rfl, State.storesByte wf rfl, fun q => ?_, ?_⟩
  · simp only [State.reg, Bank.reg_setReg, Bank.reg_setF, Option.some.injEq]
    rfl
  · simp only [Bank.setReg_f, Bank.setF_f]
    exact rotFlags_spec _ _

/-- Settles O35. -/
theorem rotatesAndShiftsOfIndexedMemory : Obligations.RotatesAndShiftsOfIndexedMemory := by
  intro s o d r wf p hp
  fin_cases hp
  · exact ⟨_, _, rfl, rfl, rotatesAt_rotXyd wf .ix o d⟩
  · exact ⟨_, _, rfl, rfl, rotatesAt_rotXyd wf .iy o d⟩
  · exact ⟨_, _, rfl, rfl, rotatesAt_rotXydReg wf .ix o d r⟩
  · exact ⟨_, _, rfl, rfl, rotatesAt_rotXydReg wf .iy o d r⟩

/-- A bit of a byte, by arithmetic. -/
theorem not_getLsbD_iff (v : Byte) (b : Fin 8) : (!v.getLsbD b.val) = true ↔ v.toNat / 2 ^ b.val % 2 = 0 := by
  rw [BitVec.getLsbD, Nat.testBit_eq_decide_div_mod_eq, Bool.not_eq_true', decide_eq_false_iff_not]
  omega

/-- Settles O36: all four forms test a bit, each with silicon's source of Y and X. -/
theorem bitTestsOnlyWriteFlags : Obligations.BitTestsOnlyWriteFlags := by
  intro s b r d p hp
  have run : exec p.1 s = .next (s.testBit b p.2.1 p.2.2) := by
    fin_cases hp <;> rfl
  rw [State.testBit_eq] at run
  refine ⟨_, run, rfl, not_getLsbD_iff p.2.1 b, rfl, ?_, rfl, rfl, rfl, fun v silicon source => ?_⟩
  · simp only [bitFlags, Bool.and_eq_true, decide_eq_true_eq]
    refine and_congr_right fun e => ?_
    subst e
    rw [show p.2.1.getLsbD (7 : Fin 8).val = _ from sign_byte_nat p.2.1, decide_eq_true_eq]
  · rw [source, State.openXY_silicon silicon, State.openTaken_silicon silicon]
    exact ⟨rfl, rfl, rfl⟩

theorem exec_djnz (s : State) (d : Byte) :
    exec (.djnz d) s = .next { s with
      main := { s.main with b := s.main.b - 1 }
      pc := if s.main.b - 1 ≠ 0 then s.pc + sext16 d else s.pc } := by
  change execDjnz d s = _
  unfold execDjnz
  dsimp only
  split <;> rfl

/-- Settles O39: each conditional instruction is an `if` on its test, and DJNZ's next state has the F it began with. -/
theorem conditionsTestTheirFlags : Obligations.ConditionsTestTheirFlags := by
  refine ⟨fun f e he => ?_, fun s cc nn => ?_, fun s d e he => ?_, fun s t f d h => ?_⟩
  · fin_cases he <;> exact ⟨rfl, rfl, rfl⟩
  · exact ⟨apply_ite Host.Outcome.next _ _ _, apply_ite Host.Outcome.next _ _ _, apply_ite Host.Outcome.next _ _ _⟩
  · fin_cases he <;> exact ⟨rfl, apply_ite Host.Outcome.next _ _ _⟩
  · rw [exec_djnz] at h ⊢
    cases h
    rfl

/-- Bit 7 of one byte over the low seven bits of another, as LD A, R shows R. -/
theorem toNat_bitSeven_over (r v : Byte) :
    (r.extractLsb' 7 1 ++ v.extractLsb' 0 7 : Byte).toNat / 128 = r.toNat / 128 := by
  have := r.isLt
  rw [BitVec.toNat_append, ← Nat.shiftLeft_add_eq_or_of_lt (BitVec.isLt _), Nat.shiftLeft_eq]
  simp only [BitVec.extractLsb'_toNat, Nat.shiftRight_eq_div_pow]
  omega

/-- A and F after a load of I or R, which is `v`; `n` is the next free value. -/
def State.loadIR (s : State) (v : Byte) (n : Nat) : State :=
  { s with main := { s.main with a := v, f := loadIRFlags s.main.f v s.iff2 }, draws := n }

theorem exec_ldAI (s : State) : exec .ldAI s = .next (s.loadIR s.i s.draws) := rfl

/-- LD A, R loads R, or bit 7 of R over free bits (R31, R385). -/
theorem exec_ldAR (s : State) :
    ∃ v n, exec .ldAR s = .next (s.loadIR v n) ∧ v.toNat / 128 = s.r.toNat / 128 ∧
      (s.cfg.rTracking = .exact → v = s.r ∧ n = s.draws) := by
  change ∃ v n, execLdAR s = _ ∧ _
  unfold execLdAR
  split
  · exact ⟨s.r, s.draws, rfl, rfl, fun _ => ⟨rfl, rfl⟩⟩
  next draw =>
    exact ⟨_, s.draws + 1, rfl, toNat_bitSeven_over s.r s.draw, fun tracked => by cases draw.symm.trans tracked⟩

/-- What the flags show of a load of I or R. -/
theorem State.loadIR_spec (s : State) (v : Byte) (n : Nat) :
    ShowsResult (s.loadIR v n).main.f v ∧ (s.loadIR v n).main.f.h = false ∧ (s.loadIR v n).main.f.pv = s.iff2 ∧
      (s.loadIR v n).main.f.n = false ∧ (s.loadIR v n).main.f.c = s.main.f.c :=
  ⟨(showsResult_iff _ _).mpr ⟨rfl, rfl, rfl, rfl⟩, rfl, rfl, rfl, rfl⟩

/-- Settles O45: both loads of A leave a `State.loadIR`. -/
theorem interruptPageAndRefreshLoads : Obligations.InterruptPageAndRefreshLoads := by
  intro s
  obtain ⟨v, n, run, bitSeven, tracked⟩ := exec_ldAR s
  refine ⟨_, _, rfl, rfl, exec_ldAI s, run, rfl, rfl, bitSeven, tracked, fun e he => ?_⟩
  fin_cases he
  · exact ⟨rfl, s.loadIR_spec s.i s.draws⟩
  · exact ⟨rfl, s.loadIR_spec v n⟩

end Sys2Proof.Machine
end

section
/-!
The block instructions: one iteration in either direction, and the repetition.
-/
namespace Sys2Proof.Machine

/-- The amount a direction adds to a pointer. -/
def Dir.amount : Dir → Word
  | .inc => 1
  | .dec => -1

theorem Dir.step_eq (k : Dir) (v : Word) : k.step v = v + k.amount := by
  cases k with
  | inc => rfl
  | dec => exact BitVec.sub_eq_add_neg v 1

theorem Dir.inputIndex_eq (k : Dir) (c : Byte) : k.inputIndex c = c + lo k.amount := by
  cases k with
  | inc => rfl
  | dec => exact BitVec.sub_eq_add_neg c 1

/-- The four forms of a block instruction: up or down, once or repeating. -/
theorem block_forms {once onceDown repeats repeatsDown : Instr} {s : State} {op : Dir → State} {again : Bool}
    (h1 : exec once s = .next (op .inc)) (h2 : exec onceDown s = .next (op .dec))
    (h3 : exec repeats s = .next ((op .inc).repeatIf again))
    (h4 : exec repeatsDown s = .next ((op .dec).repeatIf again)) :
    ∀ p ∈ ([(once, 1, false), (onceDown, -1, false), (repeats, 1, true), (repeatsDown, -1, true)] :
        List (Instr × Word × Bool)),
      ∃ k : Dir, k.amount = p.2.1 ∧ exec p.1 s = .next ((op k).repeatIf (p.2.2 && again)) := by
  intro p hp
  fin_cases hp
  exacts [⟨.inc, rfl, h1⟩, ⟨.dec, rfl, h2⟩, ⟨.inc, rfl, h3⟩, ⟨.dec, rfl, h4⟩]

/-! ### The tests for repetition -/

theorem State.bcRunsOn_eq (s : State) : s.bcRunsOn = decide (s.rp .bc ≠ 1) := by
  simp only [State.bcRunsOn, sub_ne_zero]
  rfl

theorem State.noMatch_eq (s : State) : s.noMatch = decide (s.main.a ≠ s.readByte (s.rp .hl)) := by
  simp only [State.noMatch, sub_ne_zero]
  rfl

theorem State.bRunsOn_eq (s : State) : s.bRunsOn = decide (s.main.b ≠ 1) := by
  simp only [State.bRunsOn, sub_ne_zero]

/-! ### LDI and its kin -/

/-- The flags of a block load, from BC before the decrement. -/
theorem blockLoadFlags_pred (f : Flags) (bc : Word) :
    blockLoadFlags f (bc - 1) = { f with h := false, pv := decide (bc ≠ 1), n := false } := by
  simp only [blockLoadFlags, sub_ne_zero]

/-- Settles O48, for both directions and with the repetition at once, as O49 to O51 below. -/
theorem blockLoadsMoveOneByteAndCount : Obligations.BlockLoadsMoveOneByteAndCount := by
  intro s wf p hp
  obtain ⟨k, amount, run⟩ := block_forms (op := s.blockLoad) rfl rfl rfl rfl p hp
  rw [State.repeatIf_eq, State.blockLoad_eq k _ rfl, blockLoadFlags_pred, State.bcRunsOn_eq, Dir.step_eq, Dir.step_eq,
    amount] at run
  refine ⟨_, run, rfl, State.storesByte wf rfl, pair_hi_lo _, pair_hi_lo _, pair_hi_lo _, ?_, rfl, fun silicon => ?_⟩
  · simp only [Bool.and_eq_true, decide_eq_true_eq]
  · rw [State.openXY_silicon silicon, State.openTaken_silicon silicon]
    exact ⟨rfl, rfl, rfl⟩

/-! ### CPI and its kin -/

/-- The flags of a block compare, from BC before the decrement. -/
theorem blockCompareFlags_pred (f : Flags) (a t : Byte) (bc : Word) :
    ((blockCompareFlags f a t (bc - 1)).s = true ↔ (a - t).toInt < 0) ∧
    ((blockCompareFlags f a t (bc - 1)).z = true ↔ a = t) ∧
    ((blockCompareFlags f a t (bc - 1)).h = true ↔ a.toNat % 16 < t.toNat % 16) ∧
    ((blockCompareFlags f a t (bc - 1)).pv = true ↔ bc ≠ 1) := by
  simp only [blockCompareFlags, sign_byte, sub_eq_zero, sub_ne_zero, decide_eq_true_eq, and_self]

/-- Settles O49. The repetition test of `noMatch` and Z after the compare say the same of A and the byte. -/
theorem blockComparesStopAtAMatch : Obligations.BlockComparesStopAtAMatch := by
  intro s v hv p hp
  subst hv
  obtain ⟨k, amount, run⟩ := block_forms (op := s.blockCompare) rfl rfl rfl rfl p hp
  rw [State.repeatIf_eq, State.blockCompare_eq k _ _ rfl rfl, State.bcRunsOn_eq, State.noMatch_eq, Dir.step_eq,
    amount] at run
  obtain ⟨sign, zero, half, counter⟩ :=
    blockCompareFlags_pred s.main.f s.main.a (s.readByte (s.rp .hl)) (s.rp .bc)
  refine ⟨_, run, rfl, pair_hi_lo _, pair_hi_lo _, ?_, sign, zero, half, counter, rfl, rfl, fun silicon => ?_⟩
  · simp only [Bool.and_eq_true, decide_eq_true_eq]
  · rw [State.openXY_silicon silicon, State.openTaken_silicon silicon]
    rintro k rfl
    exact ⟨rfl, rfl, rfl⟩

/-! ### INI, OUTI and their kin -/

/-- F after block I/O on silicon (R45). -/
theorem blockIoSilicon_spec (b t j : Byte) :
    ShowsResult (blockIoSilicon b t j) b ∧ (blockIoSilicon b t j).n = t.getLsbD 7 ∧
    ((blockIoSilicon b t j).h = true ↔ 256 ≤ t.toNat + j.toNat) ∧
    ((blockIoSilicon b t j).c = true ↔ 256 ≤ t.toNat + j.toNat) ∧
    ((blockIoSilicon b t j).pv = true ↔ onesIn (BitVec.ofNat 8 ((t.toNat + j.toNat) % 8) ^^^ b) % 2 = 0) :=
  ⟨(showsResult_iff _ _).mpr ⟨rfl, rfl, rfl, rfl⟩, rfl, decide_eq_true_iff, decide_eq_true_iff, parity_iff _⟩

theorem State.blockIn_f_silicon {s : State} (silicon : s.cfg.blockIoFlags = .silicon) (k : Dir) :
    (s.blockIn k).main.f = blockIoSilicon (s.main.b - 1) s.portAnswer (s.main.c + lo k.amount) := by
  rw [State.blockIn, State.setBlockIoF_silicon, Dir.inputIndex_eq]
  · rfl
  · rw [State.afterPortRead_eq]
    exact silicon

theorem State.blockOut_f_silicon {s : State} (silicon : s.cfg.blockIoFlags = .silicon) (k : Dir) :
    (s.blockOut k).main.f =
      blockIoSilicon (s.main.b - 1) (s.readByte s.main.hl) (lo (s.main.hl + k.amount)) := by
  rw [State.blockOut, State.setBlockIoF_silicon, Dir.step_eq]
  · rfl
  · exact silicon

/-- Z after block I/O, from B before the decrement. -/
theorem blockIo_zero (b : Byte) : decide (b - 1 = 0) = true ↔ b = 1 := by
  rw [decide_eq_true_iff, sub_eq_zero]

/-- Settles O50. Z is fixed under both settings; the rest of F only under silicon's. -/
theorem blockInputsStoreAndCount : Obligations.BlockInputsStoreAndCount := by
  intro s wf p hp
  obtain ⟨k, amount, run⟩ := block_forms (op := s.blockIn) rfl rfl rfl rfl p hp
  have zero : (s.blockIn k).main.f.z = decide (s.main.b - 1 = 0) := State.setBlockIoF_z _ _ _ _
  have flags := fun silicon => State.blockIn_f_silicon (s := s) silicon k
  rw [State.blockIn_eq] at run
  rw [State.repeatIf_eq, State.bRunsOn_eq, Dir.step_eq, amount] at run
  refine ⟨_, s.portAnswer, run, rfl, ?_, State.storesByte wf rfl, pair_hi_lo _, ?_, ?_, ?_⟩
  · intro w rest lined
    rw [State.portAnswer, lined]
  · simp only [Bool.and_eq_true, decide_eq_true_eq]
  · exact zero ▸ blockIo_zero s.main.b
  · rintro silicon k' rfl
    exact flags silicon ▸ amount ▸ blockIoSilicon_spec _ _ _

/-- Settles O51. The value added to the byte is L after HL's step. -/
theorem blockOutputsWriteAndCount : Obligations.BlockOutputsWriteAndCount := by
  intro s p hp
  obtain ⟨k, amount, run⟩ := block_forms (op := s.blockOut) rfl rfl rfl rfl p hp
  have zero : (s.blockOut k).main.f.z = decide (s.main.b - 1 = 0) := State.setBlockIoF_z _ _ _ _
  have flags := fun silicon => State.blockOut_f_silicon (s := s) silicon k
  rw [State.blockOut_eq] at run
  rw [State.repeatIf_eq, State.bRunsOn_eq, Dir.step_eq, amount] at run
  refine ⟨_, s.readByte s.main.hl, run, rfl, rfl, pair_hi_lo _, ?_, ?_, ?_⟩
  · simp only [Bool.and_eq_true, decide_eq_true_eq]
  · exact zero ▸ blockIo_zero s.main.b
  · rintro silicon k' rfl
    exact flags silicon ▸ amount ▸ blockIoSilicon_spec _ _ _

end Sys2Proof.Machine
end

section
/-!
The stack gives back what was put, and the return from a non-maskable interrupt.
-/
namespace Sys2Proof.Machine

/-- What is popped after a push is what was pushed (R77, R78). -/
theorem State.popValue_push {s : State} (wf : s.mem.wf = true) (v : Word) : (s.push v).popValue = v := by
  have above : s.sp - 2 + 1 = s.sp - 1 := by bv_omega
  change pair ((s.push v).readByte (s.sp - 2 + 1)) ((s.push v).readByte (s.sp - 2)) = v
  rw [above, State.readByte_push wf, State.readByte_push wf, if_neg (stack_bytes_ne s.sp), if_pos rfl, if_pos rfl,
    pair_hi_lo]

/-- A pop after a push leaves SP where it was; the bytes stored stay. -/
theorem State.popStack_push (s : State) (v : Word) : (s.push v).popStack = { s with mem := (s.push v).mem } := by
  change ({ s with mem := _, sp := s.sp - 2 + 2 } : State) = _
  rw [BitVec.sub_add_cancel]

/-- A return after a call comes back: only the bytes stored are left of it. -/
theorem State.popPc_call {s : State} (wf : s.mem.wf = true) (target : Word) :
    (s.call target).popPc = { s with mem := (s.push s.pc).mem } := by
  change ((s.push s.pc).popStack).setPc (s.push s.pc).popValue = _
  rw [State.popValue_push wf, State.popStack_push]
  rfl

theorem State.rpPush_setRpPush (s : State) (p q : RpPush) (v : Word) :
    (s.setRpPush p v).rpPush q = if q = p then v else s.rpPush q := by
  cases p <;> cases q <;> simp [State.setRpPush, State.rpPush] <;> rfl

theorem State.setRpPush_af (s : State) (p : RpPush) (v : Word) :
    (s.setRpPush p v).main.a = s.main.a ∧ (s.setRpPush p v).main.f = s.main.f := by
  cases p <;> exact ⟨rfl, rfl⟩

/-- Settles O13: a pop after a push answers what was pushed and leaves SP where it was. -/
theorem theStackGivesBackWhatWasPut : Obligations.TheStackGivesBackWhatWasPut := by
  intro s p q nn wf
  refine ⟨⟨_, _, rfl, rfl, ?_⟩, ⟨_, _, rfl, rfl, ?_⟩, ⟨_, _, rfl, rfl, ?_⟩⟩
  · rw [State.popValue_push wf, State.popStack_push]
    obtain ⟨ha, hf⟩ := State.setRpPush_af { s with mem := (s.push (s.rpPush p)).mem } q (s.rpPush p)
    refine ⟨?_, fun o ne => ?_, ha, hf, ?_⟩
    · rw [State.rpPush_setRpPush, if_pos rfl]
    · rw [State.rpPush_setRpPush, if_neg ne]
      rfl
    · rw [State.setRpPush_eq]
  · rw [State.popValue_push wf, State.popStack_push, hi_pair, lo_pair, Flags.ofByte_toByte]
    rfl
  · exact State.popPc_call wf nn

/-- RETN after a call comes back too, with IFF1 from IFF2. -/
theorem State.returnFromHandler_call {s : State} (wf : s.mem.wf = true) (target : Word) :
    (s.call target).returnFromHandler true = { s with mem := (s.push s.pc).mem, iff1 := s.iff2 } :=
  congrArg (State.setIff1 · s.iff2) (State.popPc_call wf target)

/-- Settles O55: the handler was entered by a call in the state the acknowledgement left. -/
theorem retnReturnsFromANonMaskableInterrupt : Obligations.RetnReturnsFromANonMaskableInterrupt := by
  intro s wf noReset nmi
  have wf' : (s.sampled.acknowledge .nmi).mem.wf = true := by
    rw [State.acknowledge_nmi, State.sampled_eq]
    exact wf
  have back := State.returnFromHandler_call wf' 0x0066
  refine ⟨_, _, step_nmi noReset nmi, congrArg Host.Outcome.next back, ?_⟩
  rw [State.acknowledge_nmi, State.sampled_eq]

end Sys2Proof.Machine
end

section
/-!
The level of INT where it is masked, and the instruction after EI.
-/
namespace Sys2Proof.Machine

/-- While IFF1 is 0 or the delay of EI runs no level of INT is accepted (R612). -/
theorem State.acceptsInt_masked {s : State} (h : s.iff1 = false ∨ s.eiPending = true) (level : Bool) :
    s.acceptsInt level = false := by
  rcases h with e | e <;> simp [State.acceptsInt, e]

/-- Settles O57: both boundaries sample to the same state, which accepts no maskable interrupt. -/
theorem aMaskedRequestMakesNoDifference : Obligations.AMaskedRequestMakesNoDifference := by
  intro s level later masked b
  have same : ({ s with inputs := { b with int := level } :: later } : State).sampled =
      ({ s with inputs := b :: later } : State).sampled := rfl
  rw [step, step, runStep, runStep, same, State.acceptsInt_masked (by exact masked),
    State.acceptsInt_masked (by exact masked)]
  rfl

/-- Settles O58: the step is exec of EI, which leaves the delay up. -/
theorem theInstructionAfterEiRunsFirst : Obligations.TheInstructionAfterEiRunsFirst := by
  intro s undisturbed ei
  have decoded : decode (s.bytesFrom s.pc 1) = .ok ⟨.ei, 1, 1⟩ := by
    rw [State.bytesFrom, State.bytesFrom, ei]
    rfl
  obtain ⟨r, -, run⟩ := aRunningStepExecutesTheDecodedInstruction s 1 _ undisturbed (by decide) decoded
  exact ⟨_, run, rfl, rfl, rfl, fun noReset noNmi => ⟨noReset, noNmi, undisturbed.noLatch, fun _ _ => rfl,
    undisturbed.running⟩⟩

end Sys2Proof.Machine
end

section
/-!
Port input and output: what a port read leaves in the environment's fields and in the register set.
-/
namespace Sys2Proof.Machine

/-- A port read that leaves the register set `b`: one access recorded, one answer or one free value taken (R79, R80). -/
theorem State.setMain_afterPortRead (s : State) (port : Word) (b : Bank) :
    (s.afterPortRead port).setMain b =
      { s with
        main := b
        io := s.io ++ [.read port s.portAnswer]
        portIn := s.portIn.tail
        draws := (s.afterPortRead port).draws } := by
  rw [State.afterPortRead_eq]
  rfl

theorem State.afterPortRead_main (s : State) (port : Word) : (s.afterPortRead port).main = s.main := by
  rw [State.afterPortRead_eq]

/-- An answer lined up is the one a port read takes, and no free value is needed. -/
theorem State.portAnswer_of_lined {s : State} {v : Byte} {rest : List Byte} (lined : s.portIn = v :: rest)
    (port : Word) : s.portAnswer = v ∧ (s.afterPortRead port).draws = s.draws := by
  rw [State.afterPortRead_eq, State.portAnswer, lined]
  exact ⟨rfl, rfl⟩

/-- The register set after a port read of `v`: the register it is for, if any, takes the byte, and F is `f` where the
instruction writes it (R300, R370, R371). -/
def Bank.takePortByte (b : Bank) (dest : Option Reg8) (v : Byte) (writesF : Bool) (f : Flags) : Bank :=
  let taken := dest.elim b (b.setReg · v)
  if writesF then taken.setF f else taken

theorem Bank.reg_takePortByte (b : Bank) (dest : Option Reg8) (v : Byte) (writesF : Bool) (f : Flags) (q : Reg8) :
    (b.takePortByte dest v writesF f).reg q = if some q = dest then v else b.reg q := by
  have taken : (dest.elim b (b.setReg · v)).reg q = if some q = dest then v else b.reg q := by
    cases dest with
    | none => rfl
    | some r => simp only [Option.elim, Bank.reg_setReg, Option.some.injEq]
  cases writesF with
  | false => exact taken
  | true => exact (Bank.reg_setF _ _ q).trans taken

theorem Bank.takePortByte_f (b : Bank) (dest : Option Reg8) (v : Byte) (writesF : Bool) (f : Flags) :
    (b.takePortByte dest v writesF f).f = if writesF = true then f else b.f := by
  cases writesF with
  | true => rfl
  | false =>
    cases dest with
    | none => rfl
    | some r => exact b.setReg_f r v

/-- Settles O43: all three reads take the byte into the register set; the flags are those of `inFlags_spec`. -/
theorem portsAreReadAndWrittenInTheRecord : Obligations.PortsAreReadAndWrittenInTheRecord := by
  intro s r n
  refine ⟨fun p hp => ?_, rfl, rfl, rfl⟩
  have run : exec p.1 s = .next ((s.afterPortRead p.2.1).setMain ((s.afterPortRead p.2.1).main.takePortByte p.2.2.1
      s.portAnswer p.2.2.2 (inFlags s.main.f s.portAnswer))) := by
    fin_cases hp <;> rfl
  rw [State.afterPortRead_main, State.setMain_afterPortRead] at run
  refine ⟨_, s.portAnswer, run, rfl, ?_, Bank.reg_takePortByte _ _ _ _ _, ?_⟩
  · intro w rest lined
    exact State.portAnswer_of_lined lined p.2.1
  · rw [Bank.takePortByte_f]
    split
    · exact inFlags_spec s.main.f s.portAnswer
    · rfl

end Sys2Proof.Machine
end

section
/-!
16-bit stores and the stack: the word a store, a push or a call leaves in memory, and what a pop or a return takes back.
-/
namespace Sys2Proof.Machine

/-! ### 16-bit stores -/

/-- A state whose memory is that of a 16-bit store (R76). -/
theorem State.storesWord {s t : State} (wf : s.mem.wf = true) {addr v : Word} (h : t.mem = (s.writeWord addr v).mem) :
    StoresWord s t addr v := by
  intro a
  rw [State.readByte_of_mem h, State.readByte_writeWord wf]

/-- Settles O18: all four forms are 16-bit stores at nn. -/
theorem wordStoresWriteTwoBytesLowFirst : Obligations.WordStoresWriteTwoBytesLowFirst := by
  intro s p nn wf e he
  have run : exec e.1 s = .next (s.writeWord nn e.2) := by
    fin_cases he <;> rfl
  exact ⟨_, run, rfl, State.storesWord wf rfl⟩

/-! ### Pushes -/

/-- A state whose memory is that of a push: the word stands below the stack pointer, low byte first (R77). -/
theorem State.storesWord_push {s t : State} (wf : s.mem.wf = true) {v : Word} (h : t.mem = (s.push v).mem) :
    StoresWord s t (s.sp - 2) v := by
  intro a
  have above : s.sp - 2 + 1 = s.sp - 1 := by bv_omega
  rw [State.readByte_of_mem h, State.readByte_push wf, above]

/-- Settles O19: every form pushes one word. -/
theorem pushesStoreBelowTheStackPointer : Obligations.PushesStoreBelowTheStackPointer := by
  intro s p wf e he
  have run : exec e.1 s = .next (s.push e.2) := by
    fin_cases he <;> rfl
  exact ⟨_, run, rfl, State.storesWord_push wf rfl⟩

/-! ### Pops, calls and returns -/

@[simp] theorem State.lo_popValue (s : State) : lo s.popValue = s.readByte s.sp := lo_pair _ _
@[simp] theorem State.hi_popValue (s : State) : hi s.popValue = s.readByte (s.sp + 1) := hi_pair _ _

/-- Settles O20: the two bytes are the halves of the word popped. -/
theorem popsLoadFromTheStackPointer : Obligations.PopsLoadFromTheStackPointer := by
  intro s
  rw [← s.lo_popValue, ← s.hi_popValue, pair_hi_lo]
  exact ⟨rfl, rfl, rfl, rfl, rfl, rfl⟩

/-- Settles O41: a call is a push of pc and a jump. -/
theorem callsPushTheReturnAddress : Obligations.CallsPushTheReturnAddress := by
  intro s cc y nn wf
  refine ⟨fun p hp => ?_, s.call nn, rfl, rfl⟩
  have run : exec p.1 s = .next (s.call p.2) := by
    fin_cases hp <;> rfl
  exact ⟨_, run, rfl, State.storesWord_push wf rfl⟩

/-- Settles O42: all four pop pc, RETN and RETI by `returnFromHandler`, which may copy IFF2. -/
theorem returnsPopTheProgramCounter : Obligations.ReturnsPopTheProgramCounter := by
  rintro s _ cc rfl
  exact ⟨rfl, rfl, rfl, congrArg Host.Outcome.next (s.returnFromHandler_eq s.cfg.retiCopiesIff2)⟩

end Sys2Proof.Machine
end

section
/-!
The round trip of the whole encoder: an instruction's bytes, after any run of DD and FD bytes that the last page-selecting
byte overrides (R121), decode to it.
-/
namespace Sys2Proof

namespace Laws.RoundTrip

/-- The family's lemmas together: one for each constructor. -/
theorem statement (i : Instr) : Statement i := by
  cases i <;> simp only [ixUnlisted, iyUnlisted, edUnlisted, nop, ldRpNn, ldBCindA, incRp, incR, decR, ldRN, rlca,
    exAFAF, addHLRp, ldABCind, decRp, rrca, djnz, ldDEindA, rla, jr, ldADEind, rra, jrCc, ldNnindHL, daa, ldHLNnind,
    cpl, ldNnindA, incHLind, decHLind, ldHLindN, scf, ldANnind, ccf, ldRR, ldRHLind, ldHLindR, halt, addAR, adcAR,
    subR, sbcAR, andR, xorR, orR, cpR, retCc, popRp2, jpCcNn, jpNn, callCcNn, pushRp2, addAN, rst, ret, cbPrefix,
    callNn, adcAN, outNA, subN, exx, inAN, ddPrefix, sbcAN, exSPindHL, andN, jpHL, exDEHL, edPrefix, xorN, popAF, di,
    pushAF, orN, ldSPHL, ei, fdPrefix, cpN, rlcR, rrcR, rlR, rrR, slaR, sraR, sllR, srlR, bitBR, bitBHLind, resBR,
    resBHLind, setBR, setBHLind, inRC, outCR, sbcHLRp, ldNnindRp, neg, retn, im0, ldIA, adcHLRp, ldRpNnind, reti,
    ldRA, im1, ldAI, im2, ldAR, rrd, rld, inFC, outC0, ldi, cpi, ini, outi, ldd, cpd, ind, outd, ldir, cpir, inir,
    otir, lddr, cpdr, indr, otdr, addIXRr, ldIXNn, ldNnindIX, incIX, ldIXNnind, decIX, incIXd, decIXd, ldIXdN, ldRIXd,
    ldIXdR, addAIXd, adcAIXd, subIXd, sbcAIXd, andIXd, xorIXd, orIXd, cpIXd, ddPrefixAfterDd, popIX, exSPindIX,
    pushIX, jpIX, edPrefixAfterDd, ldSPIX, fdPrefixAfterDd, rotIXdR, rotIXd, bitIXd, resIXdR, resIXd, setIXdR, setIXd,
    addIYRr, ldIYNn, ldNnindIY, incIY, ldIYNnind, decIY, incIYd, decIYd, ldIYdN, ldRIYd, ldIYdR, addAIYd, adcAIYd,
    subIYd, sbcAIYd, andIYd, xorIYd, orIYd, cpIYd, ddPrefixAfterFd, popIY, exSPindIY, pushIY, jpIY, edPrefixAfterFd,
    ldSPIY, fdPrefixAfterFd, rotIYdR, rotIYd, bitIYd, resIYdR, resIYd, setIYdR, setIYd]

end Laws.RoundTrip

/-- Every instruction has an opcode byte. -/
theorem one_le_length_pageBytes {i : Instr} (hwf : i.wf = true) : 1 ≤ i.pageBytes.length := by
  obtain ⟨-, -, one, -⟩ := decodeOn_shape i.page ((i.pageBytes ++ []).getD 0 0) ((i.pageBytes ++ []).getD 1 0)
    ((i.pageBytes ++ []).getD 2 0)
  rwa [Laws.RoundTrip.statement i hwf []] at one

/-- An instruction's own bytes, read on its page, are that instruction, whatever follows them. -/
theorem decodeFrom_pageBytes {i : Instr} (hwf : i.wf = true) (hi : i.selects = none) (fuel : Nat) (rest : List Byte) :
    decodeFrom (fuel + 1) i.page (i.pageBytes ++ rest) = .ok ⟨i, i.pageBytes.length, 1⟩ := by
  have trip := Laws.RoundTrip.statement i hwf rest
  obtain ⟨b, ops, bytes⟩ := List.exists_cons_of_length_pos (one_le_length_pageBytes hwf)
  rw [bytes] at trip ⊢
  simp only [List.cons_append, List.getD_cons_zero, List.getD_cons_succ] at trip ⊢
  have begins : pageSelected i.page b = none := by
    rw [← (decodeOn_shape i.page b ((ops ++ rest).getD 0 0) ((ops ++ rest).getD 1 0)).1, trip, hi]
  rw [decodeFrom_instr begins, trip, if_neg (by simp)]

/-- The bytes that select page `q` (R120) do so where they stand on page `p`. -/
def Page.LeadsTo (p q : Page) : Prop :=
  (q.select = [] ∧ p = q) ∨ ∃ b, q.select = [b] ∧ pageSelected p b = some q

theorem Page.leadsTo_of_main (q : Page) : Page.main.LeadsTo q := by
  cases q with
  | main => exact .inl ⟨rfl, rfl⟩
  | cb | ed | ix | iy => exact .inr ⟨_, rfl, rfl⟩

/-- The pages on which DD, ED and FD select a page: MAIN, and the two on which they override a DD or FD (R121). -/
def Page.IsOverridden (p : Page) : Prop := p = .main ∨ p = .ix ∨ p = .iy

theorem Page.IsOverridden.leadsTo {p q : Page} (hp : p.IsOverridden) (hq : q = .ed ∨ q = .ix ∨ q = .iy) :
    p.LeadsTo q := by
  rcases hp with rfl | rfl | rfl <;> rcases hq with rfl | rfl | rfl <;> exact .inr ⟨_, rfl, rfl⟩

/-- DD and FD override what stands before them. -/
theorem Page.IsOverridden.pageSelected {p : Page} {b : Byte} (hp : p.IsOverridden) (hb : b = 0xDD ∨ b = 0xFD) :
    ∃ q : Page, Sys2Proof.pageSelected p b = some q ∧ q.IsOverridden := by
  rcases hb with rfl | rfl
  · exact ⟨.ix, by rcases hp with rfl | rfl | rfl <;> rfl, .inr (.inl rfl)⟩
  · exact ⟨.iy, by rcases hp with rfl | rfl | rfl <;> rfl, .inr (.inr rfl)⟩

/-- An encoded instruction, read on a page from which its page can be selected. -/
theorem decodeFrom_encode {i : Instr} (hwf : i.wf = true) (hi : i.selects = none) {p : Page} (hp : p.LeadsTo i.page)
    (fuel : Nat) (rest : List Byte) :
    decodeFrom (fuel + 2) p (encode i ++ rest) = .ok ⟨i, (encode i).length, i.page.select.length + 1⟩ := by
  rcases hp with ⟨none, rfl⟩ | ⟨b, one, selected⟩
  · rw [encode, none]
    exact decodeFrom_pageBytes hwf hi (fuel + 1) rest
  · rw [encode, one, List.append_assoc, List.singleton_append, decodeFrom_page selected,
      decodeFrom_pageBytes hwf hi fuel rest]
    simp [Except.map, Nat.add_comm]

/-- The same after a run of DD and FD bytes, by induction on the run: each byte of it selects a page on which the next
overrides it, and adds one to the length and one to the fetches. -/
theorem decodeFrom_run_encode {i : Instr} (hwf : i.wf = true) (hi : i.selects = none) {run : List Byte} {p : Page}
    (hp : p.IsOverridden) (lead : p.LeadsTo i.page) (hrun : ∀ b ∈ run, b = 0xDD ∨ b = 0xFD)
    (hpage : run ≠ [] → i.page = .ed ∨ i.page = .ix ∨ i.page = .iy) (fuel : Nat) (rest : List Byte) :
    decodeFrom (fuel + run.length + 2) p (run ++ (encode i ++ rest))
      = .ok ⟨i, run.length + (encode i).length, run.length + i.page.select.length + 1⟩ := by
  induction run generalizing p with
  | nil => simpa using decodeFrom_encode hwf hi lead fuel rest
  | cons b run ih =>
    obtain ⟨first, others⟩ := List.forall_mem_cons.mp hrun
    obtain ⟨q, selected, hq⟩ := hp.pageSelected first
    have page := hpage (List.cons_ne_nil b run)
    have more : fuel + (b :: run).length + 2 = fuel + run.length + 2 + 1 := by simp only [List.length_cons]; omega
    rw [more, List.cons_append, decodeFrom_page selected, ih hq (hq.leadsTo page) others fun _ => page]
    simp only [Except.map, List.length_cons, Except.ok.injEq, Decoded.mk.injEq, true_and]
    omega

/-- Settles O2: `decode` starts on the MAIN page, with fuel for every byte it is given. -/
theorem encodedInstructionsDecodeAfterAnyPrefixRun : Obligations.EncodedInstructionsDecodeAfterAnyPrefixRun := by
  intro i run rest hwf hi hrun hpage
  have nonempty := one_le_length_pageBytes hwf
  obtain ⟨fuel, enough⟩ : ∃ k, (run ++ encode i ++ rest).length + 1 = k + run.length + 2 :=
    ⟨(encode i).length + rest.length - 1, by simp only [List.length_append, encode]; omega⟩
  rw [decode, enough, List.append_assoc]
  exact decodeFrom_run_encode hwf hi (.inl rfl) (Page.leadsTo_of_main i.page) hrun hpage fuel rest

end Sys2Proof
end

section
/-!
What the decoder can answer (R120, R141, R142): every reading of bytes is a well-formed instruction, no longer than they
are. With it, the one fault of a step: the run of DD and FD bytes that fills memory (R122).
-/
namespace Sys2Proof

/-! ### Well-formed answers -/

set_option maxRecDepth 100000 in
/-- Every opcode byte tried, on every page, but for the bytes DD CB and FD CB, after which the last byte decides. -/
theorem decodeOn_wf_all (p : Page) (b1 b2 : Byte) :
    (List.range 256).all (fun k => k == 0xCB || (decodeOn p (BitVec.ofNat 8 k) b1 b2).1.wf) = true := by
  cases p <;> rfl

theorem decodeIXCb_wf (d op : Byte) : (decodeIXCb d op).wf = true := by
  unfold decodeIXCb
  split <;> rfl

theorem decodeIYCb_wf (d op : Byte) : (decodeIYCb d op).wf = true := by
  unfold decodeIYCb
  split <;> rfl

/-- An encoding the source does not list is answered only for an opcode byte that is none of the listed ones. -/
theorem decodeOn_wf (p : Page) (b0 b1 b2 : Byte) : (decodeOn p b0 b1 b2).1.wf = true := by
  by_cases cb : b0 = 0xCB
  · subst cb
    cases p with
    | main | cb | ed => rfl
    | ix => exact decodeIXCb_wf b1 b2
    | iy => exact decodeIYCb_wf b1 b2
  · have row := List.all_eq_true.mp (decodeOn_wf_all p b1 b2) b0.toNat (List.mem_range.mpr b0.isLt)
    rw [BitVec.ofNat_toNat, BitVec.setWidth_eq, Bool.or_eq_true, beq_iff_eq] at row
    exact row.resolve_left fun e => cb (BitVec.eq_of_toNat_eq e)

/-- The answer `d` to `count` bytes is an instruction, no byte that selects a page, and its bytes are among them. -/
structure Decoded.Sound (d : Decoded) (count : Nat) : Prop where
  wf : d.instr.wf = true
  selects : d.instr.selects = none
  fetched : 1 ≤ d.fetches
  fetches_le : d.fetches ≤ d.len
  len_le : d.len ≤ count

/-- By induction on the bytes that select a page: each adds one to the length, to the fetches and to the bytes given. -/
theorem decodeFrom_sound {fuel : Nat} {p : Page} {bs : List Byte} {d : Decoded} (h : decodeFrom fuel p bs = .ok d) :
    d.Sound bs.length := by
  induction fuel generalizing p bs d with
  | zero => cases h
  | succ fuel ih =>
    cases bs with
    | nil => cases h
    | cons b rest =>
      cases hp : pageSelected p b with
      | none =>
        obtain ⟨selects, -, one, -⟩ := decodeOn_shape p b (rest.getD 0 0) (rest.getD 1 0)
        rw [decodeFrom_instr hp] at h
        split at h
        next => cases h
        next whole =>
          cases h
          exact ⟨decodeOn_wf p b _ _, selects.trans hp, Nat.le_refl 1, one, Nat.le_of_not_lt whole⟩
      | some q =>
        rw [decodeFrom_page hp] at h
        cases hd : decodeFrom fuel q rest with
        | error e => rw [hd] at h; cases h
        | ok r =>
          rw [hd] at h
          cases h
          obtain ⟨wf, selects, fetched, fetches_le, len_le⟩ := ih hd
          exact ⟨wf, selects, Nat.le_succ_of_le fetched, Nat.succ_le_succ fetches_le, Nat.succ_le_succ len_le⟩

/-- Settles O3. -/
theorem decodeAnswersWellFormedInstructions : Obligations.DecodeAnswersWellFormedInstructions := by
  intro bs d h
  obtain ⟨wf, selects, fetched, fetches_le, len_le⟩ := decodeFrom_sound h
  exact ⟨wf, selects, fetched, fetches_le, len_le⟩

namespace Machine

/-! ### The fault -/

/-- No well-formed instruction faults: it completes or is refused. -/
theorem exec_ne_fault {i : Instr} (hwf : i.wf = true) (s : State) (f : Fault) : exec i s ≠ .fault f := by
  obtain ⟨-, -, outcome⟩ := onlyUnlistedEncodingsAreRefused
  intro h
  specialize outcome i s hwf
  rw [h] at outcome
  split_ifs at outcome
  · obtain ⟨_, refused, _⟩ := outcome
    cases refused
  · obtain ⟨_, _, _, refused, _⟩ := outcome
    cases refused
  · obtain ⟨_, completed⟩ := outcome
    cases completed

theorem State.pc_advance (s : State) (len : Nat) : (s.advance len).pc = s.pc + BitVec.ofNat 16 len := rfl

@[simp] theorem State.readByte_advance (s : State) (len : Nat) (a : Word) :
    (s.advance len).readByte a = s.readByte a := State.readByte_of_mem rfl a

/-- A run that faults has a byte at pc that selects a page, and faults after it. -/
theorem runInstr_succ_fault {fuel : Nat} {p : Page} {s : State} {f : Fault} (h : runInstr (fuel + 1) p s = .fault f) :
    ∃ q, pageSelected p (s.readByte s.pc) = some q ∧ runInstr fuel q (s.advance 1) = .fault f := by
  cases hp : pageSelected p (s.readByte s.pc) with
  | none =>
    rw [runInstr_instr hp] at h
    exact absurd h (exec_ne_fault (decodeOn_wf _ _ _ _) _ f)
  | some q => exact ⟨q, rfl, by rwa [runInstr_page hp] at h⟩

/-- Only DD and FD select a page other than CB and ED. -/
theorem pageSelected_eq_some {p q : Page} {b : Byte} (h : pageSelected p b = some q) :
    q = .cb ∨ q = .ed ∨ b = 0xDD ∨ b = 0xFD := by
  cases p with
  | cb | ed => cases h
  | main | ix | iy =>
    simp only [pageSelected] at h
    split_ifs at h <;> simp_all

/-- After CB and after ED there is an instruction: a byte that selects a page after which another one does is DD or FD. -/
theorem index_of_pageSelected {p q q' : Page} {b b' : Byte} (h : pageSelected p b = some q)
    (next : pageSelected q b' = some q') : b = 0xDD ∨ b = 0xFD := by
  rcases pageSelected_eq_some h with rfl | rfl | index
  · cases next
  · cases next
  · exact index

/-- A fault comes after `fuel` bytes that select a page, and all but the last of them are DD or FD. -/
theorem readByte_of_runInstr_fault {fuel : Nat} {p : Page} {s : State} {f : Fault} (h : runInstr fuel p s = .fault f)
    {k : Nat} (hk : k + 1 < fuel) :
    s.readByte (s.pc + BitVec.ofNat 16 k) = 0xDD ∨ s.readByte (s.pc + BitVec.ofNat 16 k) = 0xFD := by
  induction fuel generalizing p s k with
  | zero => omega
  | succ fuel ih =>
    obtain ⟨q, selected, after⟩ := runInstr_succ_fault h
    cases k with
    | zero =>
      obtain ⟨fuel, rfl⟩ : ∃ m, fuel = m + 1 := ⟨fuel - 1, by omega⟩
      obtain ⟨_, next, -⟩ := runInstr_succ_fault after
      simpa using index_of_pageSelected selected next
    | succ k =>
      have rest := ih after (k := k) (by omega)
      rwa [State.readByte_advance, State.pc_advance, BitVec.add_assoc, ← BitVec.ofNat_add, Nat.add_comm] at rest

/-- A memory of DD and FD bytes outlasts any fuel. -/
theorem runInstr_fault {s : State} (h : ∀ a : Word, s.readByte a = 0xDD ∨ s.readByte a = 0xFD) {p : Page}
    (hp : p.IsOverridden) (fuel : Nat) : runInstr fuel p s = .fault .prefixHang := by
  induction fuel generalizing p s with
  | zero => rfl
  | succ fuel ih =>
    obtain ⟨q, selected, hq⟩ := hp.pageSelected (h s.pc)
    rw [runInstr_page selected]
    exact ih (by simpa using h) hq

/-- Settles O5: the fuel is enough to pass over every byte of memory. -/
theorem onlyAnEndlessPrefixRunFaults : Obligations.OnlyAnEndlessPrefixRunFaults := by
  intro s f undisturbed
  rw [step_undisturbed undisturbed]
  constructor
  · intro h a
    have bound : (a - s.pc).toNat + 1 < prefixFuel := Nat.lt_succ_of_lt (Nat.succ_lt_succ (a - s.pc).isLt)
    have byte := readByte_of_runInstr_fault h bound
    rwa [BitVec.ofNat_toNat, BitVec.setWidth_eq, BitVec.add_comm, BitVec.sub_add_cancel] at byte
  · intro h
    cases f
    exact runInstr_fault (s := { s with inputs := s.inputs.tail }) h (.inl rfl) prefixFuel

end Machine
end Sys2Proof
end

section
/-!
The encodings the source does not list, under the settings that run them (R141, R480): which listed instruction each one is.
-/
namespace Sys2Proof.Machine

/-! ### The ED page -/

/-- The 194 opcodes of R141, as the statement lists them. -/
abbrev UnlistedEd (op : Byte) : Prop :=
  op.toNat < 0x40 ∨ op ∈ [0x54, 0x55, 0x5C, 0x5D, 0x64, 0x65, 0x66, 0x6C, 0x6D, 0x6E, 0x74, 0x75, 0x76, 0x77, 0x7C,
      0x7D, 0x7E, 0x7F] ∨
    (0x80 ≤ op.toNat ∧ (op.toNat < 0xA0 ∨ 4 ≤ op.toNat % 8 ∨ 0xC0 ≤ op.toNat))

/-- What silicon runs for an unlisted ED opcode, by R141's lists of opcodes. -/
def edListedMeaning (op : Byte) : Instr :=
  if op ∈ [0x54, 0x5C, 0x64, 0x6C, 0x74, 0x7C] then .neg
  else if op ∈ [0x55, 0x5D, 0x65, 0x6D, 0x75, 0x7D] then .retn
  else if op = 0x66 ∨ op = 0x6E then .im0
  else if op = 0x76 then .im1
  else if op = 0x7E then .im2
  else .nop

/-- What silicon runs for an ED opcode, by its fields. -/
def edFieldMeaning (op : Byte) : Instr :=
  if fieldX op ≠ 1 then .nop
  else
    match fieldZ op with
    | 4 => .neg
    | 5 => .retn
    | 6 => if fieldY op ≤ 5 then .im0 else if fieldY op = 6 then .im1 else .im2
    | _ => .nop

theorem edSilicon_eq_exec_edFieldMeaning (op : Byte) (s : State) : edSilicon op s = exec (edFieldMeaning op) s := by
  unfold edSilicon edFieldMeaning
  split
  · rfl
  · match fieldZ op with
    | 4 | 5 => rfl
    | 6 => split_ifs <;> rfl
    | 0 | 1 | 2 | 3 | _ + 7 => rfl

set_option maxRecDepth 100000 in
/-- The listed ED opcodes are the others, and on the unlisted ones the fields say what the lists say. -/
theorem unlistedEd_all : ∀ k : Fin 256, UnlistedEd (BitVec.ofFin k) →
    edListed.contains (BitVec.ofFin k : Byte) = false ∧
      edFieldMeaning (BitVec.ofFin k) = edListedMeaning (BitVec.ofFin k) := by
  decide

/-- Settles O52. The encoding round trip decodes them; by setting they are refused, or are what R141's lists say. -/
theorem unlistedEdOpcodesAreRefusedOrAsOnSilicon : Obligations.UnlistedEdOpcodesAreRefusedOrAsOnSilicon := by
  intro s op unlisted
  obtain ⟨apart, lists⟩ := unlistedEd_all op.toFin unlisted
  refine ⟨?_, fun refuse => execEdUnlisted_refuse refuse op, fun silicon => ?_⟩
  · have hwf : (Instr.edUnlisted op).wf = true := by rw [Instr.wf, apart, Bool.not_false]
    exact encodedInstructionsDecodeAfterAnyPrefixRun (.edUnlisted op) [] [] hwf rfl (fun b hb => nomatch hb)
      fun run => absurd rfl run
  · obtain ⟨u, hu, -⟩ := edSilicon_completes op s
    have meaning : exec (edListedMeaning op) s = .next u := by
      rw [← lists, ← edSilicon_eq_exec_edFieldMeaning, hu]
    refine ⟨u, (execEdUnlisted_silicon silicon op).trans hu, ?_⟩
    unfold edListedMeaning at meaning
    split_ifs at meaning ⊢
    iterate 5 exact meaning
    exact (Host.Outcome.next.inj meaning).symm

/-! ### The DD and FD pages -/

/-- Every opcode outside the admitted set is a MAIN-page instruction (R140), and what is read there completes. -/
theorem exec_of_unlisted {op : Byte} (unlisted : Laws.RoundTrip.unlistedIdx op = true) (n1 n2 : Byte) (s : State) :
    (decodeMain op n1 n2).1.page = .main ∧ execMain op (decodeMain op n1 n2).1 s = exec (decodeMain op n1 n2).1 s ∧
      ∃ t, exec (decodeMain op n1 n2).1 s = .next t := by
  obtain ⟨t, ht⟩ := execMain_completes unlisted n1 n2 s
  obtain ⟨-, page, same⟩ := execMain_meaning ht
  exact ⟨page, same s, t, (same s).symm.trans ht⟩

/-- R480 (a): an opcode that names neither H nor L runs as on the MAIN page. -/
theorem idxSilicon_of_namesHL_false {x : IndexReg} {op n1 n2 : Byte} (names : namesHL (decodeMain op n1 n2).1 = false)
    (s : State) : idxSilicon x op n1 n2 s = execMain op (decodeMain op n1 n2).1 s := by
  rw [idxSilicon_eq, names, if_neg Bool.false_ne_true]

/-- R480 (b): an opcode that names H or L runs between two exchanges of HL and XY. -/
theorem idxSilicon_of_namesHL {op n1 n2 : Byte} (unlisted : Laws.RoundTrip.unlistedIdx op = true)
    (names : namesHL (decodeMain op n1 n2).1 = true) (x : IndexReg) (s : State) :
    ∃ u, exec (decodeMain op n1 n2).1 (s.swapHlXy x) = .next u ∧ idxSilicon x op n1 n2 s = .next (u.swapHlXy x) := by
  obtain ⟨-, same, u, hu⟩ := exec_of_unlisted unlisted n1 n2 (s.swapHlXy x)
  exact ⟨u, hu, by rw [idxSilicon_eq, names, if_pos rfl, same, hu, swapBack]⟩

/-- Where IX holds what HL held, the exchange gives H and L back. -/
theorem State.swapHlXy_ix_of_pair {u : State} {h l : Byte} (hu : u.ix = pair h l) :
    u.swapHlXy .ix = { u with main := { u.main with h := h, l := l }, ix := pair u.main.h u.main.l } := by
  rw [State.swapHlXy_ix, hu, hi_pair, lo_pair]
  rfl

/-- The same of IY. -/
theorem State.swapHlXy_iy_of_pair {u : State} {h l : Byte} (hu : u.iy = pair h l) :
    u.swapHlXy .iy = { u with main := { u.main with h := h, l := l }, iy := pair u.main.h u.main.l } := by
  rw [State.swapHlXy_iy, hu, hi_pair, lo_pair]
  rfl

/-- Settles O53. A MAIN-page instruction does not reach IX or IY, so what was exchanged for HL is there to be put back. -/
theorem unlistedIndexOpcodesOnSilicon : Obligations.UnlistedIndexOpcodesOnSilicon := by
  rintro s op n1 n2 silicon hwf _ rfl
  have unlisted := (Laws.RoundTrip.idxUnlistedWf_iff hwf).1
  have page := (exec_of_unlisted unlisted n1 n2 s).1
  rw [execIxUnlisted_silicon silicon, execIyUnlisted_silicon silicon]
  cases names : namesHL (decodeMain op n1 n2).1 with
  | false =>
    obtain ⟨-, same, t, ht⟩ := exec_of_unlisted unlisted n1 n2 s
    rw [if_pos rfl, idxSilicon_of_namesHL_false names, idxSilicon_of_namesHL_false names, same]
    exact ⟨t, ht, ht, ht⟩
  | true =>
    rw [if_neg Bool.false_ne_true.symm]
    constructor
    · obtain ⟨u, hu, run⟩ := idxSilicon_of_namesHL unlisted names .ix s
      have kept : u.ix = s.main.hl :=
        ((onlyItsOwnPageReachesAnIndexRegister _ _ u 0 hu).1 (by rw [page]; decide)).1
      exact ⟨_, u, run, hu, State.swapHlXy_ix_of_pair kept⟩
    · obtain ⟨u, hu, run⟩ := idxSilicon_of_namesHL unlisted names .iy s
      have kept : u.iy = s.main.hl :=
        ((onlyItsOwnPageReachesAnIndexRegister _ _ u 0 hu).2 (by rw [page]; decide)).1
      exact ⟨_, u, run, hu, State.swapHlXy_iy_of_pair kept⟩

end Sys2Proof.Machine
end

section
/-!
The encoding's tier 1 statements: bytes written out from the spec's tables, and the instructions that only write flip-flops.
-/
namespace Sys2Proof.Machine

/-- Settles O1: each list of bytes decoded, page by page. -/
theorem writtenBytesDecodeAsTheSpecNamesThem : Obligations.WrittenBytesDecodeAsTheSpecNamesThem :=
  ⟨rfl, rfl, rfl, rfl, rfl, rfl, rfl, rfl, rfl, rfl, rfl, rfl, rfl, rfl⟩

/-- Settles O44: a byte that selects a page has no effect, and the rest are one write each. -/
theorem nopPageBytesAndInterruptControl : Obligations.NopPageBytesAndInterruptControl := by
  intro s
  refine ⟨List.forall_mem_cons.mpr ⟨rfl, fun i hi => exec_selects ?_ s⟩, rfl, rfl, rfl, rfl, rfl, rfl⟩
  fin_cases hi <;> simp [Instr.selects]

end Sys2Proof.Machine
end

section
/-!
DAA: its correction and H by arithmetic, and on that the decimal sum and difference it makes of a binary one.
-/
namespace Sys2Proof.Machine

/-! ### The correction (R227) -/

/-- What DAA adds to A or takes from it: 6 for the low digit, 0x60 for the high one. -/
def daaCorrection (a : Byte) (f : Flags) : Nat :=
  (if f.h = true ∨ 9 < a.toNat % 16 then 6 else 0) + (if f.c = true ∨ 0x99 < a.toNat then 0x60 else 0)

theorem daa8_c (a : Byte) (f : Flags) : (daa8 a f).2.c = true ↔ f.c = true ∨ 0x99 < a.toNat := by
  simp [daa8]

/-- The two digits' corrections have no bit in common, so that joining them is adding them. -/
theorem daa8_fst (a : Byte) (f : Flags) :
    (daa8 a f).1 = if f.n = true then a - BitVec.ofNat 8 (daaCorrection a f)
      else a + BitVec.ofNat 8 (daaCorrection a f) := by
  have joined : (if (f.h || decide (a.toNat % 16 > 9)) = true then (0x06 : Byte) else 0x00)
      ||| (if (f.c || decide (a.toNat > 0x99)) = true then 0x60 else 0x00) = BitVec.ofNat 8 (daaCorrection a f) := by
    simp only [Bool.or_eq_true, decide_eq_true_eq, gt_iff_lt, daaCorrection]
    split <;> split <;> rfl
  rw [← joined]
  rfl

theorem daaCorrection_le (a : Byte) (f : Flags) : daaCorrection a f ≤ 0x66 := by
  unfold daaCorrection
  split <;> split <;> decide

theorem daa8_toNat (a : Byte) (f : Flags) :
    (daa8 a f).1.toNat =
      (if f.n = true then a.toNat + 256 - daaCorrection a f else a.toNat + daaCorrection a f) % 256 := by
  have := daaCorrection_le a f
  have := a.isLt
  rw [daa8_fst]
  split
  · rw [BitVec.toNat_sub, BitVec.toNat_ofNat]
    omega
  · rw [BitVec.toNat_add, BitVec.toNat_ofNat]
    omega

/-- H shows whether bit 4 changed. 0x60 does not touch that bit, so this is the carry or borrow of the low digit. -/
theorem daa8_h (a : Byte) (f : Flags) :
    (daa8 a f).2.h = true ↔ if f.n = true then f.h = true ∧ a.toNat % 16 < 6 else 9 < a.toNat % 16 := by
  have bit4 (v : Byte) : v.getLsbD 4 = decide (v.toNat / 16 % 2 = 1) := Nat.testBit_eq_decide_div_mod_eq
  have changed : (daa8 a f).2.h = true ↔ ¬ (a.toNat / 16 % 2 = (daa8 a f).1.toNat / 16 % 2) := by
    change (a.getLsbD 4 ^^ (daa8 a f).1.getLsbD 4) = true ↔ _
    rw [bit4, bit4, Bool.xor_iff_ne, ne_eq, decide_eq_decide]
    omega
  have := a.isLt
  simp only [changed, daa8_toNat, daaCorrection, ← Bool.toNat_eq_one]
  split
  · split <;> split <;> omega
  · split <;> split <;> omega

/-- Settles O29, by the laws of `daa8` above for A, C and H; the other flags show the new A. -/
theorem daaAdjustsByTheFlagsAndNibbles : Obligations.DaaAdjustsByTheFlagsAndNibbles := fun s =>
  ⟨_, daaCorrection s.main.a s.main.f, rfl, rfl, rfl, daa8_toNat _ _, szxy_shows s.main.f _, parity_iff _, rfl,
    daa8_c _ _, daa8_h _ _⟩

/-! ### Packed decimal -/

theorem bcd_toNat {n : Nat} (h : n < 100) : (bcd n).toNat = 16 * (n / 10) + n % 10 := by
  rw [bcd, BitVec.toNat_ofNat]
  omega

theorem bcd_low_digit {n : Nat} (h : n < 100) : (bcd n).toNat % 16 = n % 10 := by
  rw [bcd_toNat h]
  omega

/-- A byte is the packed-BCD byte of the last two digits of a number. -/
theorem eq_bcd_mod {v : Byte} {n : Nat} (h : v.toNat = 16 * (n / 10 % 10) + n % 10) : v = bcd (n % 100) := by
  apply BitVec.eq_of_toNat_eq
  rw [h, bcd_toNat (by omega)]
  omega

/-- The correction, where DAA's two tests say `low` and `high`. -/
theorem daaCorrection_of_tests {a : Byte} {f : Flags} {low high : Prop} [Decidable low] [Decidable high]
    (hlow : f.h = true ∨ 9 < a.toNat % 16 ↔ low) (hhigh : f.c = true ∨ 0x99 < a.toNat ↔ high) :
    daaCorrection a f = (if low then 6 else 0) + if high then 0x60 else 0 := by
  simp only [daaCorrection, hlow, hhigh]

/-- The low digit is corrected where the low digits' sum is above 9, the high one where the whole sum is above 99. -/
theorem daa8_add8_bcd {m n : Nat} (hm : m < 100) (hn : n < 100) (cin : Bool) :
    (daa8 (add8 (bcd m) (bcd n) cin).1 (add8 (bcd m) (bcd n) cin).2).1 = bcd ((m + n + cin.toNat) % 100) ∧
    ((daa8 (add8 (bcd m) (bcd n) cin).1 (add8 (bcd m) (bcd n) cin).2).2.c = true ↔ 100 ≤ m + n + cin.toNat) := by
  obtain ⟨sum, half, -, plus, -⟩ := add8_spec (bcd m) (bcd n) cin
  generalize add8 (bcd m) (bcd n) cin = r at *
  rw [bcd_toNat hm, bcd_toNat hn] at sum
  rw [bcd_low_digit hm, bcd_low_digit hn] at half
  have := r.1.isLt
  have := toNat_bool cin
  have := toNat_bool r.2.c
  have low : r.2.h = true ∨ 9 < r.1.toNat % 16 ↔ 10 ≤ m % 10 + n % 10 + cin.toNat := by
    rw [half]
    omega
  have high : r.2.c = true ∨ 0x99 < r.1.toNat ↔ 100 ≤ m + n + cin.toNat := by
    rw [← Bool.toNat_eq_one]
    omega
  refine ⟨eq_bcd_mod ?_, (daa8_c _ _).trans high⟩
  rw [daa8_toNat, plus, if_neg Bool.false_ne_true, daaCorrection_of_tests low high]
  have tens : (m + n + cin.toNat) / 10 % 10 = m / 10 + n / 10
      + (if 10 ≤ m % 10 + n % 10 + cin.toNat then 1 else 0) - (if 100 ≤ m + n + cin.toNat then 10 else 0) := by
    split <;> split <;> omega
  rw [tens]
  split <;> split <;> omega

/-- The low digit is corrected where it borrows, the high one where the whole difference does. -/
theorem daa8_sub8_bcd {m n : Nat} (hm : m < 100) (hn : n < 100) (cin : Bool) :
    (daa8 (sub8 (bcd m) (bcd n) cin).1 (sub8 (bcd m) (bcd n) cin).2).1 = bcd ((m + 100 - n - cin.toNat) % 100) ∧
    ((daa8 (sub8 (bcd m) (bcd n) cin).1 (sub8 (bcd m) (bcd n) cin).2).2.c = true ↔ m < n + cin.toNat) := by
  obtain ⟨difference, half, -, minus, -⟩ := sub8_spec (bcd m) (bcd n) cin
  generalize sub8 (bcd m) (bcd n) cin = r at *
  rw [bcd_toNat hm, bcd_toNat hn] at difference
  rw [bcd_low_digit hm, bcd_low_digit hn] at half
  have := r.1.isLt
  have := toNat_bool cin
  have := toNat_bool r.2.c
  have low : r.2.h = true ∨ 9 < r.1.toNat % 16 ↔ m % 10 < n % 10 + cin.toNat := by
    rw [half]
    omega
  have high : r.2.c = true ∨ 0x99 < r.1.toNat ↔ m < n + cin.toNat := by
    rw [← Bool.toNat_eq_one]
    omega
  refine ⟨eq_bcd_mod ?_, (daa8_c _ _).trans high⟩
  rw [daa8_toNat, minus, if_pos rfl, daaCorrection_of_tests low high]
  have tens : (m + 100 - n - cin.toNat) / 10 % 10 = m / 10 + (if m < n + cin.toNat then 10 else 0)
      - n / 10 - (if m % 10 < n % 10 + cin.toNat then 1 else 0) := by
    split <;> split <;> omega
  rw [tens]
  split <;> split <;> omega

/-- Settles O28: exec is `daa8` after `add8`, and after `sub8`. -/
theorem daaCorrectsPackedDecimalSumsAndDifferences : Obligations.DaaCorrectsPackedDecimalSumsAndDifferences := by
  intro s m n hm hn ha
  obtain ⟨sum, hundreds⟩ := daa8_add8_bcd hm hn s.main.f.c
  obtain ⟨difference, borrow⟩ := daa8_sub8_bcd hm hn s.main.f.c
  rw [← ha] at sum hundreds difference borrow
  exact ⟨_, _, _, _, rfl, rfl, rfl, rfl, sum, hundreds, difference, borrow⟩

end Sys2Proof.Machine
end

section
/-!
The 8-bit and 16-bit loads, the 8-bit stores, the exchanges, the rotates of A and the jumps: each writes what it names and
nothing else.
-/
namespace Sys2Proof.Machine

/-- Settles O14: all eight forms write one register. -/
theorem byteLoadsReplaceOneRegister : Obligations.ByteLoadsReplaceOneRegister := by
  intro s r src n d nn p hp
  have run : exec p.1 s = .next (s.setReg p.2.1 p.2.2) := by
    fin_cases hp <;> rfl
  exact ⟨_, run, rfl, Bank.setReg_f _ _ _, fun q => Bank.reg_setReg _ _ q _⟩

/-- No pair that `Rp` names holds A or F. -/
theorem State.setRp_af (s : State) (p : Rp) (v : Word) :
    (s.setRp p v).main.a = s.main.a ∧ (s.setRp p v).main.f = s.main.f := by
  cases p <;> exact ⟨rfl, rfl⟩

/-- Settles O15: all eight forms write one pair. -/
theorem wordLoadsAndCountsReplaceOnePair : Obligations.WordLoadsAndCountsReplaceOnePair := by
  intro s p nn e he
  have run : exec e.1 s = .next (s.setRp e.2.1 e.2.2) := by
    fin_cases he <;> rfl
  obtain ⟨accumulator, flags⟩ := s.setRp_af e.2.1 e.2.2
  exact ⟨_, run, s.setRp_eq _ _, accumulator, flags, fun q => s.rp_setRp _ q _⟩

/-- Settles O17: all nine forms write one byte of memory. -/
theorem byteStoresWriteOneByte : Obligations.ByteStoresWriteOneByte := by
  intro s r n d nn wf p hp
  have run : exec p.1 s = .next (s.writeByte p.2.1 p.2.2) := by
    fin_cases hp <;> rfl
  exact ⟨_, run, rfl, State.storesByte wf rfl⟩

/-- A state whose memory is that of a stack exchange: the word stands at SP (R301). The high byte is written first, and the
two writes do not meet. -/
theorem State.storesWord_exchangeTop {s t : State} (wf : s.mem.wf = true) {v : Word}
    (h : t.mem = (s.exchangeTop v).mem) : StoresWord s t s.sp v := by
  intro a
  rw [State.readByte_of_mem h, State.exchangeTop, State.readByte_writeByte (State.wf_writeByte wf _ _),
    State.readByte_writeByte wf]

theorem Bank.setHl_setDe_exchanged (b : Bank) :
    (b.setDe b.hl).setHl b.de = { b with d := b.h, e := b.l, h := b.d, l := b.e } := by
  simp [Bank.setDe, Bank.setHl, Bank.de, Bank.hl]

/-- Settles O21: the word read at SP, by its halves, goes to the register that the exchange has stored. -/
theorem exchangesSwapWhatTheyName : Obligations.ExchangesSwapWhatTheyName := by
  intro s
  refine ⟨rfl, rfl, ?_, fun wf => ⟨_, _, _, rfl, rfl, rfl, ?_, State.storesWord_exchangeTop wf rfl, rfl,
    State.storesWord_exchangeTop wf rfl, rfl, State.storesWord_exchangeTop wf rfl⟩⟩
  · exact congrArg (fun b => Host.Outcome.next (s.setMain b)) s.main.setHl_setDe_exchanged
  · rw [← s.lo_popValue, ← s.hi_popValue]
    rfl

/-- Settles O33: all four are the rotate `rot_spec` speaks of. -/
theorem accumulatorRotatesKeepSignZeroParity : Obligations.AccumulatorRotatesKeepSignZeroParity := by
  intro s p hp
  have run : exec p.1 s = .next (s.rotA p.2) := by
    fin_cases hp <;> rfl
  rw [State.rotA_eq, State.rotResult_eq] at run
  exact ⟨_, run, rfl⟩

/-- Settles O40: a jump is one write of pc, a conditional one an `if` on its test, and DJNZ's count is 0 where B was 1. -/
theorem jumpsOnlyMoveTheProgramCounter : Obligations.JumpsOnlyMoveTheProgramCounter := by
  intro s cc d nn
  refine ⟨rfl, rfl, rfl, rfl, rfl, rfl, fun p hp => ?_, ?_⟩
  · fin_cases hp <;> rfl
  · rw [exec_djnz]
    have : s.main.b - 1 ≠ 0 ↔ ¬ s.main.b = 1 := by rw [ne_eq, sub_eq_zero]
    simp only [this, ite_not, sext16]

end Sys2Proof.Machine
end

section
/-!
The halted step (R264): it ends on the same state but for R, which counts as it does for a fetch (R31).
-/
namespace Sys2Proof.Machine

/-- Settles O59: no request is accepted, so the step is the halted one, which writes R and nothing else. -/
theorem aHaltedStepOnlyCountsR : Obligations.AHaltedStepOnlyCountsR := by
  intro s halted noReset noNmi noLatch noInt
  have noAccept : s.acceptsInt s.boundary.int = false :=
    Bool.eq_false_iff.mpr fun accepts => noInt ((State.acceptsInt_iff _ _).mp accepts)
  exact ⟨_, step_halted noReset noNmi noLatch noAccept halted, rfl, RCounts_nextR s.r⟩

end Sys2Proof.Machine
end

section
/-!
RES and SET: one bit of a byte replaced, in a register, or in memory with a copy to a register where one is named.
-/
namespace Sys2Proof.Machine

/-- RES and SET as one operation: bit `b` of `v` becomes `bit` (R352 to R355). -/
def replaceBit (b : Fin 8) (bit : Bool) (v : Byte) : Byte := if bit = true then setBit b v else resBit b v

theorem replaceBit_spec (b k : Fin 8) (bit : Bool) (v : Byte) :
    (replaceBit b bit v).getLsbD k.val = if k = b then bit else v.getLsbD k.val := by
  cases bit with
  | false => exact resBit_spec b k v
  | true => exact setBit_spec b k v

/-- Settles O37: both write the register with its bit replaced. -/
theorem resAndSetChangeOneBitOfARegister : Obligations.ResAndSetChangeOneBitOfARegister := by
  intro s b r p hp
  have run : exec p.1 s = .next (s.setReg r (replaceBit b p.2 (s.reg r))) := by
    fin_cases hp <;> rfl
  have written (q : Reg8) : (s.setReg r (replaceBit b p.2 (s.reg r))).reg q =
      if q = r then replaceBit b p.2 (s.reg r) else s.reg q := Bank.reg_setReg _ _ _ _
  refine ⟨_, run, rfl, Bank.setReg_f _ _ _, fun q other => ?_, fun k => ?_⟩
  · rw [written, if_neg other]
  · rw [written, if_pos rfl, replaceBit_spec]

/-- A byte written to memory, and to the register `dst` where one is named (R503 to R505). -/
def State.writeByteCopied (s : State) (addr : Word) (dst : Option Reg8) (v : Byte) : State :=
  dst.elim (s.writeByte addr v) ((s.writeByte addr v).setReg · v)

/-- Only memory and the register set can change by it, and F does not. -/
theorem State.writeByteCopied_frame (s : State) (addr : Word) (dst : Option Reg8) (v : Byte) :
    s.writeByteCopied addr dst v =
        { s with mem := s.mem.write addr.toNat v, main := (s.writeByteCopied addr dst v).main } ∧
      (s.writeByteCopied addr dst v).main.f = s.main.f := by
  cases dst with
  | none => exact ⟨rfl, rfl⟩
  | some r => exact ⟨rfl, s.main.setReg_f r v⟩

theorem State.reg_writeByteCopied (s : State) (addr : Word) (dst : Option Reg8) (v : Byte) (q : Reg8) :
    (s.writeByteCopied addr dst v).reg q = if some q = dst then v else s.reg q := by
  cases dst with
  | none => rfl
  | some r =>
    simp only [Option.some.injEq]
    exact s.main.reg_setReg r q v

/-- Settles O38: all ten forms write the byte with its bit replaced, and copy it where they name a register. -/
theorem resAndSetChangeOneBitOfMemory : Obligations.ResAndSetChangeOneBitOfMemory := by
  intro s b r d wf p hp
  have run : exec p.1 s = .next (s.writeByteCopied p.2.1 p.2.2.1 (replaceBit b p.2.2.2 (s.readByte p.2.1))) := by
    fin_cases hp <;> rfl
  obtain ⟨frame, flags⟩ := s.writeByteCopied_frame p.2.1 p.2.2.1 (replaceBit b p.2.2.2 (s.readByte p.2.1))
  have stored := congrArg State.mem frame
  exact ⟨_, _, run, stored ▸ frame, flags, State.storesByte wf stored, s.reg_writeByteCopied _ _ _,
    fun k => replaceBit_spec b k _ _⟩

end Sys2Proof.Machine
end

section
/-!
RRD and RLD: a byte by its two nibbles, and a write of the byte at HL and of A that a second one takes back (R386, R387).
-/
namespace Sys2Proof.Machine

theorem nibbles_eq_ofNat (h l : BitVec 4) : nibbles h l = BitVec.ofNat 8 (16 * h.toNat + l.toNat) := by
  rw [← nibbles_toNat, BitVec.ofNat_toNat, BitVec.setWidth_eq]

@[simp] theorem lowNibble_nibbles (h l : BitVec 4) : lowNibble (nibbles h l) = l := by
  apply BitVec.eq_of_toNat_eq
  rw [lowNibble_toNat, nibbles_toNat]
  omega

@[simp] theorem highNibble_nibbles (h l : BitVec 4) : highNibble (nibbles h l) = h := by
  apply BitVec.eq_of_toNat_eq
  rw [highNibble_toNat, nibbles_toNat]
  omega

@[simp] theorem nibbles_high_low (v : Byte) : nibbles (highNibble v) (lowNibble v) = v := by
  apply BitVec.eq_of_toNat_eq
  rw [nibbles_toNat, highNibble_toNat, lowNibble_toNat]
  omega

theorem exec_rrd (s : State) :
    exec .rrd s = .next (s.setDecimal (nibbles (lowNibble s.main.a) (highNibble (s.readByte s.main.hl)))
      (nibbles (highNibble s.main.a) (lowNibble (s.readByte s.main.hl)))) := rfl

theorem exec_rld (s : State) :
    exec .rld s = .next (s.setDecimal (nibbles (lowNibble (s.readByte s.main.hl)) (lowNibble s.main.a))
      (nibbles (highNibble s.main.a) (highNibble (s.readByte s.main.hl)))) := rfl

/-- Settles O46: both write two bytes made of nibbles, and the flags are those of the new A. -/
theorem decimalRotatesMoveNibbles : Obligations.DecimalRotatesMoveNibbles := by
  intro s wf m hm p hp
  have run : exec p.1 s = .next (s.setDecimal (BitVec.ofNat 8 p.2.1) (BitVec.ofNat 8 p.2.2)) := by
    subst hm
    fin_cases hp
    · simp only [exec_rrd, nibbles_eq_ofNat, lowNibble_toNat, highNibble_toNat, Bank.hl]
    · simp only [exec_rld, nibbles_eq_ofNat, lowNibble_toNat, highNibble_toNat, Bank.hl]
  exact ⟨_, run, rfl, State.storesByte wf rfl, inFlags_spec s.main.f (BitVec.ofNat 8 p.2.2)⟩

/-- Writing back what stood at an address takes a write there back. -/
theorem Memory.write_write_read {m : Memory} (wf : m.wf = true) {k : Nat} (lt : k < 65536) (v : Byte) :
    (m.write k v).write k (m.read k) = m := by
  have written := Memory.wf_write (v := v) wf lt
  refine Memory.ext_of_read (Memory.wf_write written lt) wf fun j => ?_
  rw [Memory.read_write written, Memory.read_write wf]
  split
  · next here => rw [here]
  · rfl

/-- Once the byte at HL and A are both put back, only F is left of a write of the two. -/
theorem State.setDecimal_setDecimal_back {s : State} (wf : s.mem.wf = true) (m a : Byte) :
    (s.setDecimal m a).setDecimal (s.readByte s.main.hl) s.main.a =
      { s with main := { s.main with f := inFlags (inFlags s.main.f a) s.main.a } } := by
  have back : (s.mem.write s.main.hl.toNat m).write s.main.hl.toNat (s.readByte s.main.hl) = s.mem :=
    Memory.write_write_read wf s.main.hl.isLt m
  calc (s.setDecimal m a).setDecimal (s.readByte s.main.hl) s.main.a
    _ = { s with
          mem := (s.mem.write s.main.hl.toNat m).write s.main.hl.toNat (s.readByte s.main.hl)
          main := { s.main with f := inFlags (inFlags s.main.f a) s.main.a } } := rfl
    _ = _ := by rw [back]

/-- RRD and RLD leave HL, so the next read there gives what was written. -/
theorem State.readByte_setDecimal {s : State} (wf : s.mem.wf = true) (m a : Byte) :
    (s.setDecimal m a).readByte (s.setDecimal m a).main.hl = m :=
  (State.readByte_writeByte wf s.main.hl s.main.hl m).trans (if_pos rfl)

/-- RRD after a write of the byte at HL and of A moves the nibbles written. -/
theorem exec_rrd_setDecimal {s : State} (wf : s.mem.wf = true) (m a : Byte) :
    exec .rrd (s.setDecimal m a) = .next ((s.setDecimal m a).setDecimal (nibbles (lowNibble a) (highNibble m))
      (nibbles (highNibble a) (lowNibble m))) := by
  rw [exec_rrd, State.readByte_setDecimal wf]
  rfl

/-- And so does RLD. -/
theorem exec_rld_setDecimal {s : State} (wf : s.mem.wf = true) (m a : Byte) :
    exec .rld (s.setDecimal m a) = .next ((s.setDecimal m a).setDecimal (nibbles (lowNibble m) (lowNibble a))
      (nibbles (highNibble a) (highNibble m))) := by
  rw [exec_rld, State.readByte_setDecimal wf]
  rfl

/-- Settles O47: the second rotate of each pair reads what the first has written, and moves each nibble back. -/
theorem decimalRotatesUndoEachOther : Obligations.DecimalRotatesUndoEachOther := by
  intro s wf
  refine ⟨_, _, _, _, rfl, exec_rrd_setDecimal wf _ _, rfl, exec_rld_setDecimal wf _ _, ?_, ?_⟩ <;>
    simp only [lowNibble_nibbles, highNibble_nibbles, nibbles_high_low, State.setDecimal_setDecimal_back wf]

end Sys2Proof.Machine
end

section
/-!
The loads and counts of IX and IY (R451, R453 to R455): each form is one write of its own register.
-/
namespace Sys2Proof.Machine

/-- Settles O16: each form is one `State.setXy`; a load from memory takes `State.readWord`, the pair of bytes at nn. -/
theorem indexRegistersLoadAndCount : Obligations.IndexRegistersLoadAndCount := by
  intro s nn
  exact ⟨rfl, rfl, rfl, rfl, rfl, rfl, rfl, rfl⟩

end Sys2Proof.Machine
end

section
/-!
Reset and interrupt entry (R611 to R617, R700): what a step leaves that takes a request.
-/
namespace Sys2Proof.Machine

/-! ### Entry -/

/-- The acknowledgement writes no memory: what entering a handler leaves there is the push of pc. -/
theorem State.enterHandler_mem (s : State) (q : Request) (target : Word) :
    (s.enterHandler q target).mem = (s.push s.pc).mem := by
  rw [State.enterHandler_eq, State.push_eq]

theorem State.storesWord_enterHandler {s : State} (wf : s.mem.wf = true) (q : Request) (target : Word) :
    StoresWord s (s.enterHandler q target) (s.sp - 2) s.pc :=
  State.storesWord_push wf (s.enterHandler_mem q target)

/-- An acceptance counts as one fetch (R31). -/
theorem State.rCounts_enterHandler (s : State) (q : Request) (target : Word) :
    RCounts s.r (s.enterHandler q target).r 1 := by
  rw [(s.accepts_enterHandler q target).refresh]
  exact RCounts_nextR s.r

/-- Settles O54: the handler is entered at 0066, from the state with the inputs taken. -/
theorem nonMaskableInterruptEntry : Obligations.NonMaskableInterruptEntry := by
  intro s wf noReset nmi
  refine ⟨_, step_nmi noReset nmi, s.sampled.rCounts_enterHandler .nmi 0x0066,
    State.storesWord_enterHandler (s := s.sampled) wf .nmi 0x0066, ?_⟩
  rw [State.nmiEntry, State.enterHandler_eq, State.acknowledge_nmi, State.sampled_eq]

/-! ### The maskable interrupt, by mode -/

/-- The RST opcodes are 11 yyy 111 (R110), and RST y goes to 8 * y. -/
theorem rstTarget_eq (b : Byte) :
    rstTarget b =
      if 0xC0 ≤ b.toNat ∧ b.toNat % 8 = 7 then some (BitVec.ofNat 16 (b.toNat - 0xC7)) else none := by
  have bounded : b.toNat < 256 := b.isLt
  have isRst : fieldX b = 3 ∧ fieldZ b = 7 ↔ 0xC0 ≤ b.toNat ∧ b.toNat % 8 = 7 := by
    simp only [fieldX, fieldZ]
    omega
  simp only [rstTarget, isRst]
  refine if_ctx_congr Iff.rfl (fun rst => ?_) fun _ => rfl
  have target : 8 * fieldY b = b.toNat - 0xC7 := by
    simp only [fieldY]
    omega
  rw [target]

/-- Mode 2 enters a handler as the other modes do, at an address that is in the table after the entry too. -/
theorem State.enterVectored_enters (s : State) (vector : Word) :
    ∃ target, s.enterVectored vector = s.enterHandler .maskable target ∧
      target = (s.enterHandler .maskable target).readWord vector :=
  ⟨((s.acknowledge .maskable).push s.pc).readWord vector, rfl, rfl⟩

/-- Everything the entry of a maskable interrupt can do: a refusal in mode 0, or one handler entered, at an address that
the mode gives. -/
theorem State.intEntry_cases (s : State) (b : Byte) :
    (s.im = .im0 ∧ (b.toNat < 0xC0 ∨ b.toNat % 8 ≠ 7) ∧ s.intEntry b = .refused (.im0NonRst b)) ∨
    ∃ target, s.intEntry b = .next (s.enterHandler .maskable target) ∧
      ((s.im = .im0 ∧ 0xC0 ≤ b.toNat ∧ b.toNat % 8 = 7 ∧ target = BitVec.ofNat 16 (b.toNat - 0xC7)) ∨
       (s.im = .im1 ∧ target = 0x0038) ∨
       (s.im = .im2 ∧ target = (s.enterHandler .maskable target).readWord (pair s.i b))) := by
  cases mode : s.im with
  | im0 =>
    by_cases rst : 0xC0 ≤ b.toNat ∧ b.toNat % 8 = 7
    · obtain ⟨high, low⟩ := rst
      refine .inr ⟨BitVec.ofNat 16 (b.toNat - 0xC7), ?_, .inl ⟨rfl, high, low, rfl⟩⟩
      simp only [State.intEntry, mode, rstTarget_eq, high, low, and_self, if_true]
    · refine .inl ⟨rfl, by omega, ?_⟩
      simp only [State.intEntry, mode, rstTarget_eq, if_neg rst]
  | im1 =>
    refine .inr ⟨0x0038, ?_, .inr (.inl ⟨rfl, rfl⟩)⟩
    simp only [State.intEntry, mode]
  | im2 =>
    obtain ⟨target, entered, table⟩ := s.enterVectored_enters (pair s.i b)
    refine .inr ⟨target, ?_, .inr (.inr ⟨rfl, table⟩)⟩
    simp only [State.intEntry, mode, entered]

/-- Settles O56, by the cases of the entry. The handler's state has the memory of the push, where mode 2 reads its table. -/
theorem maskableInterruptEntryByMode : Obligations.MaskableInterruptEntryByMode := by
  rintro s _ wf noReset noNmi noLatch int iff1 noDelay rfl
  have run := step_int noReset noNmi noLatch ((State.acceptsInt_iff _ _).mpr ⟨int, iff1, noDelay⟩)
  rcases State.intEntry_cases { s with inputs := s.inputs.tail } s.boundary.busByte with
    ⟨mode, noRst, refused⟩ | ⟨target, entered, byMode⟩
  · exact .inl ⟨mode, noRst, run.trans refused⟩
  · have stored := State.storesWord_enterHandler (s := { s with inputs := s.inputs.tail }) wf .maskable target
    refine .inr ⟨_, run.trans entered, State.rCounts_enterHandler _ .maskable target, stored, ?_, byMode⟩
    rw [State.enterHandler_eq, State.acknowledge_maskable]

/-! ### Reset -/

/-- Settles O60: the step is R700's action, and the inputs taken before it are only those of this boundary. -/
theorem aResetGoesBeforeAnyInterrupt : Obligations.AResetGoesBeforeAnyInterrupt := by
  intro s reset
  exact ⟨_, step_reset reset, rfl, rfl, rfl, rfl, rfl, rfl, rfl, rfl, rfl, rfl, rfl, rfl, rfl, rfl⟩

end Sys2Proof.Machine
end
